-- ==== Sys2Proof/Word.lean ====
section
/-! DEFINITION. The machine's words: an 8-bit byte, a 16-bit register or offset, a text token. -/

namespace Sys2Proof

/-- A byte of memory or disk, an 8-bit operand (R25, R72). -/
abbrev Byte := BitVec 8

/-- A 16-bit register value, offset or page index (R11, R40). -/
abbrev Word := BitVec 16

/-- A text of the assembler, the disassembler or a name argument of a command (R16, R96, R98). -/
abbrev Text := List Char

/-- The number of bytes in one page (R4, R25). -/
abbrev pageSize : Nat := 65536

end Sys2Proof
end

