-- ==== Sys2Proof/Machine/Bytes.lean ====
section
/-! DEFINITION. Byte order: how a 16-bit value meets bytes, little-endian everywhere (R46, R73). -/

namespace Sys2Proof.Machine

/-- Bits 7..0 of a word (R5 `v[7:0]`). -/
def lowByte (v : Word) : Byte := v.extractLsb' 0 8

/-- Bits 15..8 of a word. -/
def highByte (v : Word) : Byte := v.extractLsb' 8 8

/-- `(high, low)` concatenated, the high byte in the high bits (R5, R46). -/
def wordOf (low high : Byte) : Word := high ++ low

/-- A word as its bytes in ascending offset order (R46, R73). -/
def wordBytes (v : Word) : List Byte := [lowByte v, highByte v]

end Sys2Proof.Machine
end

