-- ==== Sys2Proof/Machine/Cells.lean ====
section
/-! DEFINITION. The cells of the machine as plain data: stores of bytes, the register file, the flags. -/

namespace Sys2Proof.Machine

/-- A store of bytes by physical index (memory, R42) or by byte number (disk, R27), in one canonical form: indices strictly
rising, no entry equal to what an unlisted index reads as. -/
abbrev Memory := List Host.Cell

/-- What an unlisted index reads as: every byte of memory and disk is 0x00 at reset (R282, R283). -/
abbrev unlistedByte : Byte := 0x00

/-- The canonical form of a store. -/
abbrev Memory.wf (m : Memory) : Prop :=
  m.Pairwise (fun x y => x.1 < y.1) ∧ ∀ c ∈ m, c.2 ≠ unlistedByte

/-- Every listed index lies below the store's size (R30). -/
abbrev Memory.below (m : Memory) (size : Nat) : Prop := ∀ c ∈ m, c.1 < size

/-- The eight general registers (R11). The byte aliases are views of them, not storage (R13, R15). -/
structure Regs where
  ax : Word
  bx : Word
  cx : Word
  dx : Word
  sp : Word
  bp : Word
  si : Word
  di : Word
  deriving DecidableEq, Repr

/-- The six flags, six separate cells (R17). -/
structure Flags where
  of : Bool
  sf : Bool
  zf : Bool
  af : Bool
  pf : Bool
  cf : Bool
  deriving DecidableEq, Repr

end Sys2Proof.Machine
end

