-- ==== Sys2Proof/Syntax.lean ====
section
/-! DEFINITION. The syntax of the machine: register and alias names, flags, mnemonics, operand shapes, operands, the decoded
instruction the host may give to EXEC, and the instructions of the opcode table, one constructor per row. -/

namespace Sys2Proof

/-- The eight 16-bit registers (R11). -/
inductive Reg16 where
  | ax | bx | cx | dx | sp | bp | si | di
  deriving DecidableEq, Repr

/-- The eight 8-bit alias names (R12). -/
inductive Reg8 where
  | al | ah | bl | bh | cl | ch | dl | dh
  deriving DecidableEq, Repr

/-- Which byte of a 16-bit register a byte accessor names (R15). -/
inductive Half where
  | lo | hi
  deriving DecidableEq, Repr

/-- The six flags, in the source's order (R17). -/
inductive Flag where
  | of | sf | zf | af | pf | cf
  deriving DecidableEq, Repr

/-- The 17 mnemonics the executor gives a meaning (R80). -/
inductive Mnemonic where
  | mov | add | sub | and | or | xor | not | neg | inc | dec | shl | shr | rol | ror | push | pop | int
  deriving DecidableEq, Repr

/-- The closed set of operand shapes (R71). No table entry uses `rel8` or `rel16` (R85). -/
inductive Shape where
  | reg8 | reg16 | imm8 | imm16 | mem8 | mem16 | rel8 | rel16
  deriving DecidableEq, Repr

/-- The operands of a decoded instruction (R122); a register operand's width is its name's. -/
inductive Operand where
  | reg8 (r : Reg8)
  | reg16 (r : Reg16)
  | imm8 (v : Byte)
  | imm16 (v : Word)
  | mem8 (m : Word)
  | mem16 (m : Word)
  | rel8 (d : Word)
  | rel16 (d : Word)
  deriving DecidableEq, Repr

/-- The shape of an operand (R122). -/
def Operand.shape : Operand → Shape
  | .reg8 _ => .reg8
  | .reg16 _ => .reg16
  | .imm8 _ => .imm8
  | .imm16 _ => .imm16
  | .mem8 _ => .mem8
  | .mem16 _ => .mem16
  | .rel8 _ => .rel8
  | .rel16 _ => .rel16

/-- A decoded instruction as the host hands it to EXEC: any mnemonic name, any operands (R122). -/
structure Decoded where
  mnemonic : Text
  operands : List Operand
  deriving DecidableEq, Repr

/-- The instructions of the opcode table, in declaration order (R81, R82, R83). `m` is a memory offset in the active page;
the first operand is the destination, the second the source (R128). -/
inductive Instr where
  | movMem8Reg8 (m : Word) (r : Reg8)
  | movMem16Reg16 (m : Word) (r : Reg16)
  | movReg8Mem8 (r : Reg8) (m : Word)
  | movReg16Mem16 (r : Reg16) (m : Word)
  | movReg8Reg8 (d : Reg8) (r : Reg8)
  | movReg16Reg16 (d : Reg16) (r : Reg16)
  | movReg8Imm8 (d : Reg8) (v : Byte)
  | movReg16Imm16 (d : Reg16) (v : Word)
  | addMem8Reg8 (m : Word) (r : Reg8)
  | addMem16Reg16 (m : Word) (r : Reg16)
  | addReg8Mem8 (r : Reg8) (m : Word)
  | addReg16Mem16 (r : Reg16) (m : Word)
  | addReg8Reg8 (d : Reg8) (r : Reg8)
  | addReg16Reg16 (d : Reg16) (r : Reg16)
  | addReg8Imm8 (d : Reg8) (v : Byte)
  | addReg16Imm16 (d : Reg16) (v : Word)
  | subMem8Reg8 (m : Word) (r : Reg8)
  | subMem16Reg16 (m : Word) (r : Reg16)
  | subReg8Mem8 (r : Reg8) (m : Word)
  | subReg16Mem16 (r : Reg16) (m : Word)
  | subReg8Reg8 (d : Reg8) (r : Reg8)
  | subReg16Reg16 (d : Reg16) (r : Reg16)
  | subReg8Imm8 (d : Reg8) (v : Byte)
  | subReg16Imm16 (d : Reg16) (v : Word)
  | andMem8Reg8 (m : Word) (r : Reg8)
  | andMem16Reg16 (m : Word) (r : Reg16)
  | andReg8Mem8 (r : Reg8) (m : Word)
  | andReg16Mem16 (r : Reg16) (m : Word)
  | andReg8Reg8 (d : Reg8) (r : Reg8)
  | andReg16Reg16 (d : Reg16) (r : Reg16)
  | andReg8Imm8 (d : Reg8) (v : Byte)
  | andReg16Imm16 (d : Reg16) (v : Word)
  | orMem8Reg8 (m : Word) (r : Reg8)
  | orMem16Reg16 (m : Word) (r : Reg16)
  | orReg8Mem8 (r : Reg8) (m : Word)
  | orReg16Mem16 (r : Reg16) (m : Word)
  | orReg8Reg8 (d : Reg8) (r : Reg8)
  | orReg16Reg16 (d : Reg16) (r : Reg16)
  | orReg8Imm8 (d : Reg8) (v : Byte)
  | orReg16Imm16 (d : Reg16) (v : Word)
  | xorMem8Reg8 (m : Word) (r : Reg8)
  | xorMem16Reg16 (m : Word) (r : Reg16)
  | xorReg8Mem8 (r : Reg8) (m : Word)
  | xorReg16Mem16 (r : Reg16) (m : Word)
  | xorReg8Reg8 (d : Reg8) (r : Reg8)
  | xorReg16Reg16 (d : Reg16) (r : Reg16)
  | xorReg8Imm8 (d : Reg8) (v : Byte)
  | xorReg16Imm16 (d : Reg16) (v : Word)
  | notReg8 (d : Reg8)
  | notReg16 (d : Reg16)
  | negReg8 (d : Reg8)
  | negReg16 (d : Reg16)
  | incReg8 (d : Reg8)
  | incReg16 (d : Reg16)
  | decReg8 (d : Reg8)
  | decReg16 (d : Reg16)
  | shlReg8 (d : Reg8)
  | shlReg16 (d : Reg16)
  | shrReg8 (d : Reg8)
  | shrReg16 (d : Reg16)
  | rolReg8 (d : Reg8)
  | rolReg16 (d : Reg16)
  | rorReg8 (d : Reg8)
  | rorReg16 (d : Reg16)
  | pushReg16 (r : Reg16)
  | popReg16 (d : Reg16)
  | intImm8 (n : Byte)
  deriving DecidableEq, Repr

/-- The mnemonic and the operand list of an instruction, in the order of its signature (R122). -/
def Instr.parts : Instr → Mnemonic × List Operand
  | .movMem8Reg8 m r => (.mov, [.mem8 m, .reg8 r])
  | .movMem16Reg16 m r => (.mov, [.mem16 m, .reg16 r])
  | .movReg8Mem8 r m => (.mov, [.reg8 r, .mem8 m])
  | .movReg16Mem16 r m => (.mov, [.reg16 r, .mem16 m])
  | .movReg8Reg8 d r => (.mov, [.reg8 d, .reg8 r])
  | .movReg16Reg16 d r => (.mov, [.reg16 d, .reg16 r])
  | .movReg8Imm8 d v => (.mov, [.reg8 d, .imm8 v])
  | .movReg16Imm16 d v => (.mov, [.reg16 d, .imm16 v])
  | .addMem8Reg8 m r => (.add, [.mem8 m, .reg8 r])
  | .addMem16Reg16 m r => (.add, [.mem16 m, .reg16 r])
  | .addReg8Mem8 r m => (.add, [.reg8 r, .mem8 m])
  | .addReg16Mem16 r m => (.add, [.reg16 r, .mem16 m])
  | .addReg8Reg8 d r => (.add, [.reg8 d, .reg8 r])
  | .addReg16Reg16 d r => (.add, [.reg16 d, .reg16 r])
  | .addReg8Imm8 d v => (.add, [.reg8 d, .imm8 v])
  | .addReg16Imm16 d v => (.add, [.reg16 d, .imm16 v])
  | .subMem8Reg8 m r => (.sub, [.mem8 m, .reg8 r])
  | .subMem16Reg16 m r => (.sub, [.mem16 m, .reg16 r])
  | .subReg8Mem8 r m => (.sub, [.reg8 r, .mem8 m])
  | .subReg16Mem16 r m => (.sub, [.reg16 r, .mem16 m])
  | .subReg8Reg8 d r => (.sub, [.reg8 d, .reg8 r])
  | .subReg16Reg16 d r => (.sub, [.reg16 d, .reg16 r])
  | .subReg8Imm8 d v => (.sub, [.reg8 d, .imm8 v])
  | .subReg16Imm16 d v => (.sub, [.reg16 d, .imm16 v])
  | .andMem8Reg8 m r => (.and, [.mem8 m, .reg8 r])
  | .andMem16Reg16 m r => (.and, [.mem16 m, .reg16 r])
  | .andReg8Mem8 r m => (.and, [.reg8 r, .mem8 m])
  | .andReg16Mem16 r m => (.and, [.reg16 r, .mem16 m])
  | .andReg8Reg8 d r => (.and, [.reg8 d, .reg8 r])
  | .andReg16Reg16 d r => (.and, [.reg16 d, .reg16 r])
  | .andReg8Imm8 d v => (.and, [.reg8 d, .imm8 v])
  | .andReg16Imm16 d v => (.and, [.reg16 d, .imm16 v])
  | .orMem8Reg8 m r => (.or, [.mem8 m, .reg8 r])
  | .orMem16Reg16 m r => (.or, [.mem16 m, .reg16 r])
  | .orReg8Mem8 r m => (.or, [.reg8 r, .mem8 m])
  | .orReg16Mem16 r m => (.or, [.reg16 r, .mem16 m])
  | .orReg8Reg8 d r => (.or, [.reg8 d, .reg8 r])
  | .orReg16Reg16 d r => (.or, [.reg16 d, .reg16 r])
  | .orReg8Imm8 d v => (.or, [.reg8 d, .imm8 v])
  | .orReg16Imm16 d v => (.or, [.reg16 d, .imm16 v])
  | .xorMem8Reg8 m r => (.xor, [.mem8 m, .reg8 r])
  | .xorMem16Reg16 m r => (.xor, [.mem16 m, .reg16 r])
  | .xorReg8Mem8 r m => (.xor, [.reg8 r, .mem8 m])
  | .xorReg16Mem16 r m => (.xor, [.reg16 r, .mem16 m])
  | .xorReg8Reg8 d r => (.xor, [.reg8 d, .reg8 r])
  | .xorReg16Reg16 d r => (.xor, [.reg16 d, .reg16 r])
  | .xorReg8Imm8 d v => (.xor, [.reg8 d, .imm8 v])
  | .xorReg16Imm16 d v => (.xor, [.reg16 d, .imm16 v])
  | .notReg8 d => (.not, [.reg8 d])
  | .notReg16 d => (.not, [.reg16 d])
  | .negReg8 d => (.neg, [.reg8 d])
  | .negReg16 d => (.neg, [.reg16 d])
  | .incReg8 d => (.inc, [.reg8 d])
  | .incReg16 d => (.inc, [.reg16 d])
  | .decReg8 d => (.dec, [.reg8 d])
  | .decReg16 d => (.dec, [.reg16 d])
  | .shlReg8 d => (.shl, [.reg8 d])
  | .shlReg16 d => (.shl, [.reg16 d])
  | .shrReg8 d => (.shr, [.reg8 d])
  | .shrReg16 d => (.shr, [.reg16 d])
  | .rolReg8 d => (.rol, [.reg8 d])
  | .rolReg16 d => (.rol, [.reg16 d])
  | .rorReg8 d => (.ror, [.reg8 d])
  | .rorReg16 d => (.ror, [.reg16 d])
  | .pushReg16 r => (.push, [.reg16 r])
  | .popReg16 d => (.pop, [.reg16 d])
  | .intImm8 n => (.int, [.imm8 n])

/-- The instruction with the given mnemonic and operands, where the table has an entry for them (R123). -/
def Instr.ofParts : Mnemonic → List Operand → Option Instr
  | .mov, [.mem8 m, .reg8 r] => some (.movMem8Reg8 m r)
  | .mov, [.mem16 m, .reg16 r] => some (.movMem16Reg16 m r)
  | .mov, [.reg8 r, .mem8 m] => some (.movReg8Mem8 r m)
  | .mov, [.reg16 r, .mem16 m] => some (.movReg16Mem16 r m)
  | .mov, [.reg8 d, .reg8 r] => some (.movReg8Reg8 d r)
  | .mov, [.reg16 d, .reg16 r] => some (.movReg16Reg16 d r)
  | .mov, [.reg8 d, .imm8 v] => some (.movReg8Imm8 d v)
  | .mov, [.reg16 d, .imm16 v] => some (.movReg16Imm16 d v)
  | .add, [.mem8 m, .reg8 r] => some (.addMem8Reg8 m r)
  | .add, [.mem16 m, .reg16 r] => some (.addMem16Reg16 m r)
  | .add, [.reg8 r, .mem8 m] => some (.addReg8Mem8 r m)
  | .add, [.reg16 r, .mem16 m] => some (.addReg16Mem16 r m)
  | .add, [.reg8 d, .reg8 r] => some (.addReg8Reg8 d r)
  | .add, [.reg16 d, .reg16 r] => some (.addReg16Reg16 d r)
  | .add, [.reg8 d, .imm8 v] => some (.addReg8Imm8 d v)
  | .add, [.reg16 d, .imm16 v] => some (.addReg16Imm16 d v)
  | .sub, [.mem8 m, .reg8 r] => some (.subMem8Reg8 m r)
  | .sub, [.mem16 m, .reg16 r] => some (.subMem16Reg16 m r)
  | .sub, [.reg8 r, .mem8 m] => some (.subReg8Mem8 r m)
  | .sub, [.reg16 r, .mem16 m] => some (.subReg16Mem16 r m)
  | .sub, [.reg8 d, .reg8 r] => some (.subReg8Reg8 d r)
  | .sub, [.reg16 d, .reg16 r] => some (.subReg16Reg16 d r)
  | .sub, [.reg8 d, .imm8 v] => some (.subReg8Imm8 d v)
  | .sub, [.reg16 d, .imm16 v] => some (.subReg16Imm16 d v)
  | .and, [.mem8 m, .reg8 r] => some (.andMem8Reg8 m r)
  | .and, [.mem16 m, .reg16 r] => some (.andMem16Reg16 m r)
  | .and, [.reg8 r, .mem8 m] => some (.andReg8Mem8 r m)
  | .and, [.reg16 r, .mem16 m] => some (.andReg16Mem16 r m)
  | .and, [.reg8 d, .reg8 r] => some (.andReg8Reg8 d r)
  | .and, [.reg16 d, .reg16 r] => some (.andReg16Reg16 d r)
  | .and, [.reg8 d, .imm8 v] => some (.andReg8Imm8 d v)
  | .and, [.reg16 d, .imm16 v] => some (.andReg16Imm16 d v)
  | .or, [.mem8 m, .reg8 r] => some (.orMem8Reg8 m r)
  | .or, [.mem16 m, .reg16 r] => some (.orMem16Reg16 m r)
  | .or, [.reg8 r, .mem8 m] => some (.orReg8Mem8 r m)
  | .or, [.reg16 r, .mem16 m] => some (.orReg16Mem16 r m)
  | .or, [.reg8 d, .reg8 r] => some (.orReg8Reg8 d r)
  | .or, [.reg16 d, .reg16 r] => some (.orReg16Reg16 d r)
  | .or, [.reg8 d, .imm8 v] => some (.orReg8Imm8 d v)
  | .or, [.reg16 d, .imm16 v] => some (.orReg16Imm16 d v)
  | .xor, [.mem8 m, .reg8 r] => some (.xorMem8Reg8 m r)
  | .xor, [.mem16 m, .reg16 r] => some (.xorMem16Reg16 m r)
  | .xor, [.reg8 r, .mem8 m] => some (.xorReg8Mem8 r m)
  | .xor, [.reg16 r, .mem16 m] => some (.xorReg16Mem16 r m)
  | .xor, [.reg8 d, .reg8 r] => some (.xorReg8Reg8 d r)
  | .xor, [.reg16 d, .reg16 r] => some (.xorReg16Reg16 d r)
  | .xor, [.reg8 d, .imm8 v] => some (.xorReg8Imm8 d v)
  | .xor, [.reg16 d, .imm16 v] => some (.xorReg16Imm16 d v)
  | .not, [.reg8 d] => some (.notReg8 d)
  | .not, [.reg16 d] => some (.notReg16 d)
  | .neg, [.reg8 d] => some (.negReg8 d)
  | .neg, [.reg16 d] => some (.negReg16 d)
  | .inc, [.reg8 d] => some (.incReg8 d)
  | .inc, [.reg16 d] => some (.incReg16 d)
  | .dec, [.reg8 d] => some (.decReg8 d)
  | .dec, [.reg16 d] => some (.decReg16 d)
  | .shl, [.reg8 d] => some (.shlReg8 d)
  | .shl, [.reg16 d] => some (.shlReg16 d)
  | .shr, [.reg8 d] => some (.shrReg8 d)
  | .shr, [.reg16 d] => some (.shrReg16 d)
  | .rol, [.reg8 d] => some (.rolReg8 d)
  | .rol, [.reg16 d] => some (.rolReg16 d)
  | .ror, [.reg8 d] => some (.rorReg8 d)
  | .ror, [.reg16 d] => some (.rorReg16 d)
  | .push, [.reg16 r] => some (.pushReg16 r)
  | .pop, [.reg16 d] => some (.popReg16 d)
  | .int, [.imm8 n] => some (.intImm8 n)
  | _, _ => none

/-- The mnemonic of an instruction. -/
def Instr.mnemonic (i : Instr) : Mnemonic := i.parts.1

/-- The operands of an instruction, destination first (R128). -/
def Instr.operands (i : Instr) : List Operand := i.parts.2

/-- The ordered shape signature of an instruction (R80). -/
def Instr.signature (i : Instr) : List Shape := i.operands.map Operand.shape

/-! ### The closed sets, listed -/

/-- All 16-bit registers (R11). -/
def allReg16 : List Reg16 := [.ax, .bx, .cx, .dx, .sp, .bp, .si, .di]

/-- All aliases (R12). -/
def allReg8 : List Reg8 := [.al, .ah, .bl, .bh, .cl, .ch, .dl, .dh]

/-- All mnemonics, in the order of the opcode table (R80). -/
def allMnemonics : List Mnemonic :=
  [.mov, .add, .sub, .and, .or, .xor, .not, .neg, .inc, .dec, .shl, .shr, .rol, .ror, .push, .pop, .int]

/-- The eight signatures of a two-operand mnemonic, in declaration order (R81). -/
def twoOperandSignatures : List (List Shape) :=
  [[.mem8, .reg8], [.mem16, .reg16], [.reg8, .mem8], [.reg16, .mem16],
   [.reg8, .reg8], [.reg16, .reg16], [.reg8, .imm8], [.reg16, .imm16]]

/-- The signatures the executor gives a meaning, per mnemonic, in declaration order (R81, R82, R83): one constructor of
`Instr` for each. -/
def Mnemonic.signatures : Mnemonic → List (List Shape)
  | .mov | .add | .sub | .and | .or | .xor => twoOperandSignatures
  | .not | .neg | .inc | .dec | .shl | .shr | .rol | .ror => [[.reg8], [.reg16]]
  | .push | .pop => [[.reg16]]
  | .int => [[.imm8]]

/-- The flags a mnemonic affects (R18). -/
def Mnemonic.flags : Mnemonic → List Flag
  | .add | .sub | .neg => [.of, .sf, .zf, .af, .pf, .cf]
  | .inc | .dec => [.of, .sf, .zf, .af, .pf]
  | .and | .or | .xor | .shl | .shr | .rol | .ror => [.of, .sf, .zf, .pf, .cf]
  | .mov | .not | .push | .pop | .int => []

end Sys2Proof
end

