-- ==== Sys2Proof/Config.lean ====
section
/-! DEFINITION. The configuration record of R4: the register-name table, the opcode table, the open sizes, the services' values
and the reset values of a session, with the conditions the spec puts on them; and the free value of the read-line service. -/

namespace Sys2Proof

/-! ### REGTABLE (R12) -/

/-- A name of the register-name set: a 16-bit register or an alias (R12). -/
inductive RegName where
  | reg16 (r : Reg16)
  | reg8 (r : Reg8)
  deriving DecidableEq, Repr

/-- The sixteen names (R12). -/
def allRegNames : List RegName := allReg16.map RegName.reg16 ++ allReg8.map RegName.reg8

/-- A row of the register-name table: a name and the 1-byte index that encodes it (R12). -/
structure RegEntry where
  name : RegName
  index : Byte
  deriving DecidableEq, Repr

/-- What a register-name table is: every name has a row, no name has two, and no index encodes two names (R12). -/
abbrev RegTable.wf (t : List RegEntry) : Prop :=
  (t.map RegEntry.index).Nodup ∧ (t.map RegEntry.name).Nodup ∧ ∀ n ∈ allRegNames, n ∈ t.map RegEntry.name

/-! ### OPTABLE (R80) -/

/-- An opcode table entry (R80). -/
structure Entry where
  mnemonic : Mnemonic
  signature : List Shape
  opcode : Byte
  /-- the flags-affected set (R18, R81 to R83) -/
  flags : List Flag
  deriving DecidableEq, Repr

/-- The key of an entry (R80). -/
def Entry.key (e : Entry) : Mnemonic × List Shape := (e.mnemonic, e.signature)

/-- What an opcode table is: opcode bytes and keys are unique, an entry's key is one the executor gives a meaning and its
flags-affected set is the mnemonic's, and every such key has an entry (R18, R80 to R84). -/
abbrev OpTable.wf (t : List Entry) : Prop :=
  (t.map Entry.opcode).Nodup ∧ (t.map Entry.key).Nodup ∧
  (∀ e ∈ t, e.signature ∈ e.mnemonic.signatures ∧ e.flags = e.mnemonic.flags) ∧
  ∀ m ∈ allMnemonics, ∀ sig ∈ m.signatures, (m, sig) ∈ t.map Entry.key

/-! ### The record -/

/-- The configuration values of the `int` services (R4, R195, R196, R197). -/
structure Services where
  /-- SVC_PRINT -/
  printNo : Byte
  /-- SVC_READLINE -/
  readLineNo : Byte
  /-- SVC_TERMINATE -/
  terminateNo : Byte
  /-- SVC_PAGE_REG, the register that gives the page of a string or buffer -/
  pageReg : Reg16
  /-- SVC_OFF_REG, the register that gives its offset -/
  offReg : Reg16
  /-- STR_TERMINATOR -/
  terminator : Byte
  deriving DecidableEq, Repr

/-- The reset values: every register, flag, pointer, memory and disk byte (R4, R280 to R284). -/
structure ResetValues where
  regs : Machine.Regs
  flags : Machine.Flags
  /-- IP -/
  ip : Word
  /-- AP -/
  ap : Word
  /-- CUR -/
  cur : Word
  /-- MEM; an unlisted byte is 0x00 -/
  mem : Machine.Memory
  /-- DISK; an unlisted byte is 0x00 -/
  disk : Machine.Memory
  deriving DecidableEq, Repr

/-- The parameters of a session, in one structure (R4). XLEN, PAGE_SIZE, PAGE_BITS and OFFSET_BITS are the types `Word` and
`pageSize`; DISK_SIZE is `Config.diskSize`. Log entry 2. -/
structure Config where
  /-- N_PAGES -/
  nPages : Nat
  /-- SECTOR_SIZE -/
  sectorSize : Nat
  /-- SECTOR_COUNT -/
  sectorCount : Nat
  /-- REGTABLE -/
  regTable : List RegEntry
  /-- OPTABLE, in declaration order -/
  opTable : List Entry
  services : Services
  reset : ResetValues
  deriving DecidableEq, Repr

/-- The number of bytes of memory, `N_PAGES * 65536` (R42). -/
def Config.memSize (c : Config) : Nat := c.nPages * pageSize

/-- DISK_SIZE, `SECTOR_SIZE * SECTOR_COUNT` (R4, R27). -/
def Config.diskSize (c : Config) : Nat := c.sectorSize * c.sectorCount

/-- The bounds R4 gives the open sizes. -/
abbrev Config.sizesWf (c : Config) : Prop :=
  1 ≤ c.nPages ∧ c.nPages ≤ 65536 ∧ 1 ≤ c.sectorSize ∧ 1 ≤ c.sectorCount

/-- Both tables are tables (R12, R80). -/
abbrev Config.tablesWf (c : Config) : Prop := RegTable.wf c.regTable ∧ OpTable.wf c.opTable

/-- A closed set of three different service numbers (R195). -/
abbrev Services.wf (v : Services) : Prop :=
  v.printNo ≠ v.readLineNo ∧ v.printNo ≠ v.terminateNo ∧ v.readLineNo ≠ v.terminateNo

/-- The reset values are a state of the session: the page exists, memory and disk are canonical and within their sizes (R30). -/
abbrev Config.resetWf (c : Config) : Prop :=
  c.reset.ap.toNat < c.nPages ∧ c.reset.mem.wf ∧ c.reset.mem.below c.memSize ∧
  c.reset.disk.wf ∧ c.reset.disk.below c.diskSize

/-- A legal configuration (R4). -/
abbrev Config.wf (c : Config) : Prop := c.sizesWf ∧ c.tablesWf ∧ c.services.wf ∧ c.resetWf

/-- FREE VALUE: the line the host supplies to the n-th draw of the read-line service when none stands ready in the state
(R198: "The line is a free input"). Log entry 3. -/
opaque Config.freeLine : Nat → List Byte

end Sys2Proof
end

