-- ==== Sys2Proof/Machine/Defaults.lean ====
section
/-! DEFINITION. The values the spec decides for the parameters of R4, and the configuration the session is created with: for
the sizes the spec leaves open, its test configuration T0. -/

namespace Sys2Proof.Machine

/-- REGTABLE (R12): 0x00 to 0x07 are AX, BX, CX, DX, SP, BP, SI, DI; 0x08 to 0x0F are AL, AH, BL, BH, CL, CH, DL, DH. -/
def specRegTable : List RegEntry :=
  [⟨.reg16 .ax, 0x00⟩, ⟨.reg16 .bx, 0x01⟩, ⟨.reg16 .cx, 0x02⟩, ⟨.reg16 .dx, 0x03⟩,
   ⟨.reg16 .sp, 0x04⟩, ⟨.reg16 .bp, 0x05⟩, ⟨.reg16 .si, 0x06⟩, ⟨.reg16 .di, 0x07⟩,
   ⟨.reg8 .al, 0x08⟩, ⟨.reg8 .ah, 0x09⟩, ⟨.reg8 .bl, 0x0A⟩, ⟨.reg8 .bh, 0x0B⟩,
   ⟨.reg8 .cl, 0x0C⟩, ⟨.reg8 .ch, 0x0D⟩, ⟨.reg8 .dl, 0x0E⟩, ⟨.reg8 .dh, 0x0F⟩]

/-- The entries of one mnemonic whose opcodes count up from `base` (R81, R82, R83). -/
def entriesOf (m : Mnemonic) (base : Nat) : List Entry :=
  m.signatures.zipIdx.map fun p => ⟨m, p.1, BitVec.ofNat 8 (base + p.2), m.flags⟩

/-- OPTABLE: 67 entries in declaration order, ascending opcode byte (R81 to R84). -/
def specOpTable : List Entry :=
  entriesOf .mov 0x10 ++ entriesOf .add 0x20 ++ entriesOf .sub 0x30 ++
  entriesOf .and 0x40 ++ entriesOf .or 0x50 ++ entriesOf .xor 0x60 ++
  entriesOf .not 0x70 ++ entriesOf .neg 0x72 ++ entriesOf .inc 0x74 ++ entriesOf .dec 0x76 ++
  entriesOf .shl 0x78 ++ entriesOf .shr 0x7A ++ entriesOf .rol 0x7C ++ entriesOf .ror 0x7E ++
  entriesOf .push 0x80 ++ entriesOf .pop 0x81 ++ entriesOf .int 0x90

/-- The services' values (R4, R195, R196, R197): print 0x09, read line 0x0A, terminate 0x20, page from BX, offset from DX,
terminator `$`. -/
def specServices : Services :=
  { printNo := 0x09, readLineNo := 0x0A, terminateNo := 0x20, pageReg := .bx, offReg := .dx, terminator := 0x24 }

/-- The reset values (R280 to R283): zero everywhere, all flags clear, every byte of memory and disk 0x00. -/
def specReset : ResetValues :=
  { regs := ⟨0, 0, 0, 0, 0, 0, 0, 0⟩
    flags := ⟨false, false, false, false, false, false⟩
    ip := 0, ap := 0, cur := 0, mem := [], disk := [] }

/-- Test configuration T0 (R4, glossary of 00_scope.md). DESIGN CHOICE, log entry 2; unsafe for a claim that leans on the
sizes, so no statement does. -/
def defaultConfig : Config :=
  { nPages := 4, sectorSize := 512, sectorCount := 128
    regTable := specRegTable, opTable := specOpTable, services := specServices, reset := specReset }

end Sys2Proof.Machine
end

