-- ==== Sys2Proof/WellFormed.lean ====
section
/-! DEFINITION. Which decoded instructions the executor admits (R123): a known mnemonic, no immediate in a destination
position, a shape tuple that is a key of the opcode table. -/

namespace Sys2Proof

/-- Whether the first operand of a mnemonic is a destination (R128): the operands of `push` and `int` are sources. -/
def Mnemonic.writesFirst : Mnemonic → Bool
  | .push | .int => false
  | _ => true

/-- The second check of R123: no immediate stands in the destination position. -/
def destinationOk (m : Mnemonic) (ops : List Operand) : Bool :=
  match ops with
  | .imm8 _ :: _ | .imm16 _ :: _ => !m.writesFirst
  | _ => true

/-- The third check of R123: the shape tuple is the key of an entry of the session's opcode table. -/
def shapesOk (c : Config) (m : Mnemonic) (ops : List Operand) : Bool :=
  c.opTable.any fun e => e.key == (m, ops.map Operand.shape)

/-- A mnemonic with operands is well formed when it passes the second and the third check of R123. -/
def partsOk (c : Config) (m : Mnemonic) (ops : List Operand) : Bool :=
  destinationOk m ops && shapesOk c m ops

/-- Every instruction of the syntax is meant to be a table entry; this is the check. -/
def Instr.wellFormed (c : Config) (i : Instr) : Bool := partsOk c i.mnemonic i.operands

end Sys2Proof
end

