-- ==== Sys2Proof/Decode.lean ====
section
/-! DEFINITION. Looking up the register-name table and the opcode table, the decoder (total on any bytes, refusing by a
diagnostic) and the encoder, both read from the session's tables. -/

namespace Sys2Proof

/-! ### The register-name table (R12) -/

/-- The name a register field names, if it names one (R74). -/
def regOfIndex (c : Config) (b : Byte) : Option RegName :=
  (c.regTable.find? fun e => e.index == b).map RegEntry.name

/-- The index that encodes a name (R12). A well-formed table has a row for every name, so the default is never the answer. -/
def indexOf (c : Config) (n : RegName) : Byte :=
  match c.regTable.find? fun e => e.name == n with
  | some e => e.index
  | none => 0xFF

/-- The register an alias is a byte of (R12). -/
def Reg8.parent : Reg8 → Reg16
  | .al | .ah => .ax
  | .bl | .bh => .bx
  | .cl | .ch => .cx
  | .dl | .dh => .dx

/-- Which byte of its register an alias is (R12). -/
def Reg8.half : Reg8 → Half
  | .al | .bl | .cl | .dl => .lo
  | .ah | .bh | .ch | .dh => .hi

/-! ### The opcode table (R80) -/

/-- The number of bytes of an operand field (R73). -/
def Shape.bytes : Shape → Nat
  | .reg8 | .reg16 | .imm8 => 1
  | .imm16 | .mem8 | .mem16 | .rel8 | .rel16 => 2

/-- The length of an entry's instruction, in bytes (R76). -/
def entryLength (e : Entry) : Nat := 1 + (e.signature.map Shape.bytes).sum

/-- The table entry an opcode byte selects (R70, R90). -/
def entryOfOpcode (c : Config) (b : Byte) : Option Entry := c.opTable.find? fun e => e.opcode == b

/-- The table entry with a mnemonic and a shape signature (R80). -/
def entryOfKey (c : Config) (m : Mnemonic) (sig : List Shape) : Option Entry :=
  c.opTable.find? fun e => e.key == (m, sig)

/-! ### The decoder (R90) -/

/-- Why bytes do not decode (R91). -/
inductive DiagReason where
  | unknownOpcode
  | truncated
  | badRegisterIndex
  deriving DecidableEq, Repr

/-- One operand field, and the bytes after it (R73, R74). -/
def decodeOperand (c : Config) (s : Shape) (bs : List Byte) : Except DiagReason (Operand × List Byte) :=
  match s, bs with
  | .reg8, b :: t =>
    match regOfIndex c b with
    | some (.reg8 r) => .ok (.reg8 r, t)
    | _ => .error .badRegisterIndex
  | .reg16, b :: t =>
    match regOfIndex c b with
    | some (.reg16 r) => .ok (.reg16 r, t)
    | _ => .error .badRegisterIndex
  | .imm8, b :: t => .ok (.imm8 b, t)
  | .imm16, lo :: hi :: t => .ok (.imm16 (Machine.wordOf lo hi), t)
  | .mem8, lo :: hi :: t => .ok (.mem8 (Machine.wordOf lo hi), t)
  | .mem16, lo :: hi :: t => .ok (.mem16 (Machine.wordOf lo hi), t)
  | .rel8, lo :: hi :: t => .ok (.rel8 (Machine.wordOf lo hi), t)
  | .rel16, lo :: hi :: t => .ok (.rel16 (Machine.wordOf lo hi), t)
  | _, _ => .error .truncated

/-- The operand fields of a signature, in order (R90). -/
def decodeOperands (c : Config) : List Shape → List Byte → Except DiagReason (List Operand)
  | [], _ => .ok []
  | s :: ss, bs =>
    match decodeOperand c s bs with
    | .error e => .error e
    | .ok (op, t) =>
      match decodeOperands c ss t with
      | .error e => .error e
      | .ok ops => .ok (op :: ops)

/-- The decoder (R90): the instruction at the head of the bytes that remain in the page (or in the range given to the
disassembler), with its length, or the reason why there is none. The checks stand in R90's order: the opcode, the length,
the register fields. The last `none` is never reached
with a well-formed table: every entry's operands make an instruction. -/
def decode (c : Config) (bs : List Byte) : Except DiagReason (Instr × Nat) :=
  match bs with
  | [] => .error .truncated
  | b0 :: rest =>
    match entryOfOpcode c b0 with
    | none => .error .unknownOpcode
    | some e =>
      if bs.length < entryLength e then .error .truncated
      else
        match decodeOperands c e.signature rest with
        | .error r => .error r
        | .ok ops =>
          match Instr.ofParts e.mnemonic ops with
          | some i => .ok (i, entryLength e)
          | none => .error .unknownOpcode

/-- The bytes of an instruction numbered as spec/opcode_table.json numbers them: bit 0 is the least significant bit of the
first byte; every bit from `nbits` on is 0; four bytes, the longest instruction's length (R76). -/
def tableBytes (nbits w : Nat) : List Byte :=
  let v := w % 2 ^ nbits
  [BitVec.ofNat 8 v, BitVec.ofNat 8 (v / 2 ^ 8), BitVec.ofNat 8 (v / 2 ^ 16), BitVec.ofNat 8 (v / 2 ^ 24)]

/-- The instruction the decoder reads from a table word, with the session's default configuration. -/
def decodeTableWord (nbits w : Nat) : Option Instr :=
  match decode Machine.defaultConfig (tableBytes nbits w) with
  | .ok (i, _) => some i
  | .error _ => none

/-! ### The encoder (R101) -/

/-- The bytes of an operand field (R73). -/
def encodeOperand (c : Config) : Operand → List Byte
  | .reg8 r => [indexOf c (.reg8 r)]
  | .reg16 r => [indexOf c (.reg16 r)]
  | .imm8 v => [v]
  | .imm16 v => Machine.wordBytes v
  | .mem8 m => Machine.wordBytes m
  | .mem16 m => Machine.wordBytes m
  | .rel8 d => Machine.wordBytes d
  | .rel16 d => Machine.wordBytes d

/-- The bytes of an entry with operands: the opcode byte, then each operand (R70, R101). -/
def encodeParts (c : Config) (e : Entry) (ops : List Operand) : List Byte :=
  e.opcode :: ops.flatMap (encodeOperand c)

/-- The bytes of an instruction, in ascending offset order (R101). A well-formed table misses no key, so the empty list is
never the answer. -/
def encode (c : Config) (i : Instr) : List Byte :=
  match entryOfKey c i.mnemonic i.signature with
  | some e => encodeParts c e i.operands
  | none => []

/-! ### Names (R12, R98) -/

/-- A letter in upper case; every other character as it is. -/
def upperChar (c : Char) : Char :=
  if 97 ≤ c.toNat ∧ c.toNat ≤ 122 then Char.ofNat (c.toNat - 32) else c

/-- A text in upper case: names are compared without regard to case (R12, R98). -/
def upperText (t : Text) : Text := t.map upperChar

/-- The name of a 16-bit register (R12). -/
def Reg16.name : Reg16 → Text
  | .ax => ['A', 'X'] | .bx => ['B', 'X'] | .cx => ['C', 'X'] | .dx => ['D', 'X']
  | .sp => ['S', 'P'] | .bp => ['B', 'P'] | .si => ['S', 'I'] | .di => ['D', 'I']

/-- The name of an alias (R12). -/
def Reg8.name : Reg8 → Text
  | .al => ['A', 'L'] | .ah => ['A', 'H'] | .bl => ['B', 'L'] | .bh => ['B', 'H']
  | .cl => ['C', 'L'] | .ch => ['C', 'H'] | .dl => ['D', 'L'] | .dh => ['D', 'H']

/-- The name of a flag (R17). -/
def Flag.name : Flag → Text
  | .of => ['O', 'F'] | .sf => ['S', 'F'] | .zf => ['Z', 'F']
  | .af => ['A', 'F'] | .pf => ['P', 'F'] | .cf => ['C', 'F']

/-- The name of a mnemonic, in lower case (R80, R96). -/
def Mnemonic.name : Mnemonic → Text
  | .mov => ['m', 'o', 'v'] | .add => ['a', 'd', 'd'] | .sub => ['s', 'u', 'b']
  | .and => ['a', 'n', 'd'] | .or => ['o', 'r'] | .xor => ['x', 'o', 'r']
  | .not => ['n', 'o', 't'] | .neg => ['n', 'e', 'g'] | .inc => ['i', 'n', 'c'] | .dec => ['d', 'e', 'c']
  | .shl => ['s', 'h', 'l'] | .shr => ['s', 'h', 'r'] | .rol => ['r', 'o', 'l'] | .ror => ['r', 'o', 'r']
  | .push => ['p', 'u', 's', 'h'] | .pop => ['p', 'o', 'p'] | .int => ['i', 'n', 't']

/-- The name a row of the register-name table has (R12). -/
def RegName.text : RegName → Text
  | .reg16 r => r.name
  | .reg8 r => r.name

/-- The register or alias a text names, in any case (R12). -/
def regOfName (c : Config) (t : Text) : Option RegName :=
  (c.regTable.find? fun e => e.name.text == upperText t).map RegEntry.name

/-- The flag a text names, in any case (R16). DESIGN CHOICE (case), log entry 8; safe. -/
def Flag.ofName (t : Text) : Option Flag :=
  [Flag.of, .sf, .zf, .af, .pf, .cf].find? (fun f => f.name == upperText t)

/-- The mnemonic a text names, in any case (R98). -/
def Mnemonic.ofName (t : Text) : Option Mnemonic :=
  allMnemonics.find? (fun m => upperText m.name == upperText t)

end Sys2Proof
end

