-- ==== Sys2Proof/Machine/State.lean ====
section
/-! DEFINITION. The state of the engine (R10) as plain data, the reasons a step can stop, and the state at reset. -/

namespace Sys2Proof.Machine

/-- What the engine hands to the host as part of a successful outcome (R5 `emit`, R121). -/
inductive Event where
  /-- the print service's bytes (R197) -/
  | output (bytes : List Byte)
  /-- the line the read-line service took (R198) -/
  | inputTaken (line : List Byte)
  /-- the terminate service (R199) -/
  | terminateRequest
  /-- the disk image of DISK_SAVE (R233) -/
  | fileImage (bytes : List Byte)
  deriving DecidableEq, Repr

/-- The state of the engine: what R10 lists, and four fields of the model's own. -/
structure State where
  /-- the session's configuration (R4); nothing writes it. Log entry 2 -/
  cfg : Config
  regs : Regs
  flags : Flags
  /-- IP, the fetch pointer (R20) -/
  ip : Word
  /-- AP, the active page (R22) -/
  ap : Word
  /-- CUR, the offset cursor (R23) -/
  cur : Word
  /-- MEM by physical index (R25, R42) -/
  mem : Memory
  /-- DISK by byte number (R27) -/
  disk : Memory
  /-- the events handed to the host so far, oldest first (R121). The model's own, log entry 4 -/
  events : List Event
  /-- the input lines the host has ready, next first (R198). The model's own, log entry 3 -/
  hostLines : List (List Byte)
  /-- how many lines were drawn beyond those ready (R198). The model's own, log entry 3 -/
  draws : Nat
  deriving DecidableEq, Repr

/-- The errors STEP and EXEC of a table entry end with (R250, R252). The state after a fault is the state before the step
(R255), so a fault carries none. All are safe: each stands where the spec names an error. -/
inductive Fault where
  /-- raised by the fetch, when the bytes at (AP, IP) are no instruction (R124); the offset and value of the leading byte,
  and the reason (R91). Safe -/
  | disassembleDiagnostic (offset : Word) (byte : Byte) (reason : DiagReason)
  /-- ExecError.AddressOutOfRange: raised by a memory operand, push, pop and the services (R48, R252). Safe -/
  | addressOutOfRange
  /-- ExecError.UnsupportedService: raised by `int` for a number outside the closed set (R195). Safe -/
  | unsupportedService (n : Byte)
  /-- OutOfRange: raised by the fetch when AP names no page (R90); no reachable state has such an AP (R30). Safe -/
  | outOfRange
  deriving DecidableEq, Repr

/-- Why an instruction has no meaning in the model. -/
inductive Refusal where
  /-- raised by an arm of `exec` whose instruction is not modelled yet; there is none left. Safe -/
  | notModelled (mnemonic : String)
  deriving DecidableEq, Repr

/-- What a step answers. -/
abbrev Result := Host.Outcome State Fault Refusal

/-- The state at session creation with configuration `c`: every register, flag, pointer and byte at its reset value (R4, R280
to R284). -/
def State.resetWith (c : Config) : State :=
  { cfg := c
    regs := c.reset.regs, flags := c.reset.flags
    ip := c.reset.ip, ap := c.reset.ap, cur := c.reset.cur
    mem := c.reset.mem, disk := c.reset.disk
    events := [], hostLines := [], draws := 0 }

/-- The state at reset, of a session with the default configuration. -/
def State.reset : State := State.resetWith defaultConfig

end Sys2Proof.Machine
end

