-- ==== Sys2Proof/Machine/Ops.lean ====
section
/-! DEFINITION. The named operations over registers, flags, memory, events and input, and raising an error. -/

namespace Sys2Proof.Machine

/-! ### Stores -/

/-- The byte at an index of a store. -/
def readPhys : Memory → Nat → Byte
  | [], _ => unlistedByte
  | (k, b) :: t, a => if k = a then b else readPhys t a

/-- Insert a cell before the first one with a larger index. -/
def insertCell : Memory → Host.Cell → Memory
  | [], c => [c]
  | d :: t, c => if c.1 < d.1 then c :: d :: t else d :: insertCell t c

/-- Write one byte of a store, keeping its canonical form: writing what an unlisted index reads as removes the entry. -/
def writePhys (m : Memory) (a : Nat) (b : Byte) : Memory :=
  let rest := m.filter fun c => c.1 != a
  if b = unlistedByte then rest else insertCell rest (a, b)

/-- `n` bytes from index `a` on, ascending. -/
def readBytes (m : Memory) (a n : Nat) : List Byte := (List.range n).map (fun i => readPhys m (a + i))

/-- Write bytes from index `a` on, ascending. -/
def writeBytes : Memory → Nat → List Byte → Memory
  | m, _, [] => m
  | m, a, b :: bs => writeBytes (writePhys m a b) (a + 1) bs

/-! ### Registers (R13, R14, R15) -/

/-- `x[r]` for a 16-bit register. -/
def readReg16 (s : State) : Reg16 → Word
  | .ax => s.regs.ax | .bx => s.regs.bx | .cx => s.regs.cx | .dx => s.regs.dx
  | .sp => s.regs.sp | .bp => s.regs.bp | .si => s.regs.si | .di => s.regs.di

/-- `x[r] <- v` for a 16-bit register. -/
def writeReg16 (s : State) (r : Reg16) (v : Word) : State :=
  match r with
  | .ax => { s with regs := { s.regs with ax := v } }
  | .bx => { s with regs := { s.regs with bx := v } }
  | .cx => { s with regs := { s.regs with cx := v } }
  | .dx => { s with regs := { s.regs with dx := v } }
  | .sp => { s with regs := { s.regs with sp := v } }
  | .bp => { s with regs := { s.regs with bp := v } }
  | .si => { s with regs := { s.regs with si := v } }
  | .di => { s with regs := { s.regs with di := v } }

/-- `lo(r)` and `hi(r)`, for all eight registers (R15). -/
def readHalf (s : State) (r : Reg16) : Half → Byte
  | .lo => lowByte (readReg16 s r)
  | .hi => highByte (readReg16 s r)

/-- Write one byte of a register; the other byte keeps its value (R14). -/
def writeHalf (s : State) (r : Reg16) (h : Half) (v : Byte) : State :=
  match h with
  | .lo => writeReg16 s r (wordOf v (highByte (readReg16 s r)))
  | .hi => writeReg16 s r (wordOf (lowByte (readReg16 s r)) v)

/-- `x[r]` for an alias (R13). -/
def readReg8 (s : State) (r : Reg8) : Byte := readHalf s r.parent r.half

/-- `x[r] <- v` for an alias (R14). -/
def writeReg8 (s : State) (r : Reg8) (v : Byte) : State := writeHalf s r.parent r.half v

/-! ### Flags -/

/-- One flag (R17). -/
def readFlag (s : State) : Flag → Bool
  | .of => s.flags.of | .sf => s.flags.sf | .zf => s.flags.zf
  | .af => s.flags.af | .pf => s.flags.pf | .cf => s.flags.cf

/-- Write exactly the named flag (R16). -/
def writeFlag (s : State) (f : Flag) (b : Bool) : State :=
  match f with
  | .of => { s with flags := { s.flags with of := b } }
  | .sf => { s with flags := { s.flags with sf := b } }
  | .zf => { s with flags := { s.flags with zf := b } }
  | .af => { s with flags := { s.flags with af := b } }
  | .pf => { s with flags := { s.flags with pf := b } }
  | .cf => { s with flags := { s.flags with cf := b } }

/-! ### Logical memory (R42, R46, R47, R48) -/

/-- `Phys(p, o)` (R42). -/
def phys (p o : Word) : Nat := p.toNat * pageSize + o.toNat

/-- `Valid(p, o)`: the page exists (R42). -/
def validPage (c : Config) (p : Word) : Bool := decide (p.toNat < c.nPages)

/-- `MEM[p][o]`, where the page exists (R42). -/
def byteAt (s : State) (p o : Word) : Byte := readPhys s.mem (phys p o)

/-- `MemRead((p,o), 1)` with its bounds (R46, R48). -/
def memRead8 (s : State) (p o : Word) : Except Fault Byte :=
  if validPage s.cfg p then .ok (byteAt s p o) else .error .addressOutOfRange

/-- `MemRead((p,o), 2)` with its bounds: the high byte at o+1 (R46, R48). -/
def memRead16 (s : State) (p o : Word) : Except Fault Word :=
  if validPage s.cfg p ∧ o.toNat + 1 ≤ 0xFFFF then
    .ok (wordOf (readPhys s.mem (phys p o)) (readPhys s.mem (phys p o + 1)))
  else .error .addressOutOfRange

/-- `MemWrite((p,o), 1, v)` with its bounds (R47, R48). -/
def memWrite8 (s : State) (p o : Word) (v : Byte) : Except Fault State :=
  if validPage s.cfg p then .ok { s with mem := writePhys s.mem (phys p o) v }
  else .error .addressOutOfRange

/-- `MemWrite((p,o), 2, v)` with its bounds: the low byte at o, the high byte at o+1 (R47, R48). -/
def memWrite16 (s : State) (p o v : Word) : Except Fault State :=
  if validPage s.cfg p ∧ o.toNat + 1 ≤ 0xFFFF then
    .ok { s with mem := writeBytes s.mem (phys p o) (wordBytes v) }
  else .error .addressOutOfRange

/-! ### Events, input, errors -/

/-- `emit E` (R5): hand an event to the host. -/
def emit (s : State) (e : Event) : State := { s with events := s.events ++ [e] }

/-- `draw line` (R5, R198): the next line the host has ready, or, when there is none, a free line. Log entry 3; safe. -/
def drawLine (s : State) : List Byte × State :=
  match s.hostLines with
  | l :: rest => (l, { s with hostLines := rest })
  | [] => (Config.freeLine s.draws, { s with draws := s.draws + 1 })

/-- The host makes one more input line ready (R291: it supplies a line when the read-line service draws one). -/
def supplyLine (s : State) (line : List Byte) : State := { s with hostLines := s.hostLines ++ [line] }

/-- `raise K` (R5): the one way an instruction takes an error. Nothing is saved, no mode changes and nothing is vectored:
the command ends, the error goes to the host, the state stays (R255, R256, R257). -/
def raiseError (f : Fault) : Result := .fault f

/-- Continue with a value, or raise its error. -/
def orRaise {α : Type} (x : Except Fault α) (k : α → Result) : Result :=
  match x with
  | .ok v => k v
  | .error f => raiseError f

/-! ### Fetch (R44, R90, R124) -/

/-- The bytes at (p, o) and after it in the page, four at most, the longest instruction's length (R76, R91). -/
def fetchWindow (s : State) (p o : Word) : List Byte :=
  readBytes s.mem (phys p o) (min 4 (pageSize - o.toNat))

/-- Fetch and decode at (AP, IP): the instruction and its length, or the error STEP ends with (R90, R124). -/
def fetchInstr (s : State) : Except Fault (Instr × Nat) :=
  if validPage s.cfg s.ap then
    match decode s.cfg (fetchWindow s s.ap s.ip) with
    | .ok r => .ok r
    | .error reason => .error (.disassembleDiagnostic s.ip (byteAt s s.ap s.ip) reason)
  else .error .outOfRange

/-- `IP <- (IP + L) mod 65536` (R20, R124). -/
def advanceIp (s : State) (len : Nat) : State := { s with ip := s.ip + BitVec.ofNat 16 len }

end Sys2Proof.Machine
end

