-- ==== Sys2Proof/Machine/Flags.lean ====
section
/-! DEFINITION. The ALU: every result and flag computation, at any width (R130 to R135). Operands are read as unsigned
integers, computed exactly, and narrowed at the end (R5, R135). A function takes the flags before and gives the result with
the flags after; a flag it does not write keeps its value (R18). -/

namespace Sys2Proof.Machine

/-- `ZF_of(r)` (R130). -/
def zfOf {w : Nat} (r : BitVec w) : Bool := decide (r.toNat = 0)

/-- `SF_of(r)`: the top bit (R130). -/
def sfOf {w : Nat} (r : BitVec w) : Bool := r.msb

/-- The number of bits of a byte that are 1 (R5). -/
def popcount (b : Byte) : Nat := ((List.range 8).filter (fun i => b.getLsbD i)).length

/-- `PF_of(r)`: an even number of 1 bits in the low byte, at both widths (R130). -/
def pfOf {w : Nat} (r : BitVec w) : Bool := decide (popcount (r.setWidth 8) % 2 = 0)

/-- What `ADD_W` and `SUB_W` return (R131, R132). -/
structure SumOut (w : Nat) where
  result : BitVec w
  carry : Bool
  overflow : Bool
  auxCarry : Bool
  deriving DecidableEq, Repr

/-- `ADD_W(a, b)` (R131). -/
def addW {w : Nat} (a b : BitVec w) : SumOut w :=
  let s := a.toNat + b.toNat
  let r := BitVec.ofNat w s
  { result := r
    carry := decide (2 ^ w ≤ s)
    overflow := decide (a.msb = b.msb ∧ r.msb ≠ a.msb)
    auxCarry := decide (16 ≤ a.toNat % 16 + b.toNat % 16) }

/-- `SUB_W(a, b)` (R132). -/
def subW {w : Nat} (a b : BitVec w) : SumOut w :=
  let r := BitVec.ofNat w (if a.toNat < b.toNat then a.toNat + 2 ^ w - b.toNat else a.toNat - b.toNat)
  { result := r
    carry := decide (a.toNat < b.toNat)
    overflow := decide (a.msb ≠ b.msb ∧ r.msb ≠ a.msb)
    auxCarry := decide (a.toNat % 16 < b.toNat % 16) }

/-- All six flags of a sum or difference (R160, R161). -/
def sumFlags {w : Nat} (x : SumOut w) : Flags :=
  { cf := x.carry, of := x.overflow, af := x.auxCarry
    zf := zfOf x.result, sf := sfOf x.result, pf := pfOf x.result }

/-- `add` (R160). -/
def aluAdd {w : Nat} (a b : BitVec w) (_ : Flags) : BitVec w × Flags := ((addW a b).result, sumFlags (addW a b))

/-- `sub` (R161). -/
def aluSub {w : Nat} (a b : BitVec w) (_ : Flags) : BitVec w × Flags := ((subW a b).result, sumFlags (subW a b))

/-- `neg`: as `sub 0, operand` (R162). -/
def aluNeg {w : Nat} (a : BitVec w) (f : Flags) : BitVec w × Flags := aluSub (BitVec.ofNat w 0) a f

/-- `inc`: as `add operand, 1`, the carry left as it was (R163). -/
def aluInc {w : Nat} (a : BitVec w) (f : Flags) : BitVec w × Flags :=
  let x := addW a (BitVec.ofNat w 1)
  (x.result, { sumFlags x with cf := f.cf })

/-- `dec`: as `sub operand, 1`, the carry left as it was (R164). -/
def aluDec {w : Nat} (a : BitVec w) (f : Flags) : BitVec w × Flags :=
  let x := subW a (BitVec.ofNat w 1)
  (x.result, { sumFlags x with cf := f.cf })

/-- The flags of a logical result: CF and OF cleared, AF left as it was (R133). -/
def logicFlags {w : Nat} (r : BitVec w) (f : Flags) : Flags :=
  { f with cf := false, of := false, zf := zfOf r, sf := sfOf r, pf := pfOf r }

/-- `and` (R170). -/
def aluAnd {w : Nat} (a b : BitVec w) (f : Flags) : BitVec w × Flags := (a &&& b, logicFlags (a &&& b) f)

/-- `or` (R171). -/
def aluOr {w : Nat} (a b : BitVec w) (f : Flags) : BitVec w × Flags := (a ||| b, logicFlags (a ||| b) f)

/-- `xor` (R172). -/
def aluXor {w : Nat} (a b : BitVec w) (f : Flags) : BitVec w × Flags := (a ^^^ b, logicFlags (a ^^^ b) f)

/-- `not`: every bit inverted, no flag written (R173). -/
def aluNot {w : Nat} (a : BitVec w) (f : Flags) : BitVec w × Flags := (BitVec.ofNat w (2 ^ w - 1 - a.toNat), f)

/-- The flags of a shift or rotate of `a` to `r` that moved bit `c` out: OF is set when the sign bit changed, AF left as it
was (R134). -/
def shiftFlags {w : Nat} (a r : BitVec w) (c : Bool) (f : Flags) : Flags :=
  { f with cf := c, of := decide (a.msb ≠ r.msb), zf := zfOf r, sf := sfOf r, pf := pfOf r }

/-- `shl` by one bit (R180). -/
def aluShl {w : Nat} (a : BitVec w) (f : Flags) : BitVec w × Flags :=
  let r := BitVec.ofNat w (2 * a.toNat)
  (r, shiftFlags a r a.msb f)

/-- `shr` by one bit, 0 entering at the top (R181). -/
def aluShr {w : Nat} (a : BitVec w) (f : Flags) : BitVec w × Flags :=
  let r := BitVec.ofNat w (a.toNat / 2)
  (r, shiftFlags a r (a.getLsbD 0) f)

/-- `rol` by one bit over the operand's own bits (R182). -/
def aluRol {w : Nat} (a : BitVec w) (f : Flags) : BitVec w × Flags :=
  let r := BitVec.ofNat w ((2 * a.toNat) % 2 ^ w + a.msb.toNat)
  (r, shiftFlags a r a.msb f)

/-- `ror` by one bit over the operand's own bits (R183). -/
def aluRor {w : Nat} (a : BitVec w) (f : Flags) : BitVec w × Flags :=
  let r := BitVec.ofNat w (a.toNat / 2 + (a.getLsbD 0).toNat * 2 ^ (w - 1))
  (r, shiftFlags a r (a.getLsbD 0) f)

end Sys2Proof.Machine
end

