-- ==== Sys2Proof/Machine/Operands.lean ====
section
/-! DEFINITION. Operand resolution at each width (R128, R129) and the three shapes of instruction over it: copy, two
operands, one operand. Every source is read before anything is written (R126, R129). -/

namespace Sys2Proof.Machine

/-- A place an 8-bit operand lives in: an alias, or a cell of the active page (R129). -/
inductive Loc8 where
  | reg (r : Reg8)
  | mem (m : Word)
  deriving DecidableEq, Repr

/-- A place a 16-bit operand lives in. -/
inductive Loc16 where
  | reg (r : Reg16)
  | mem (m : Word)
  deriving DecidableEq, Repr

/-- An 8-bit source: a place, or an immediate (R129). -/
inductive Src8 where
  | loc (l : Loc8)
  | imm (v : Byte)
  deriving DecidableEq, Repr

/-- A 16-bit source. -/
inductive Src16 where
  | loc (l : Loc16)
  | imm (v : Word)
  deriving DecidableEq, Repr

/-- `ReadOp` of an 8-bit place (R129). -/
def readLoc8 (s : State) : Loc8 → Except Fault Byte
  | .reg r => .ok (readReg8 s r)
  | .mem m => memRead8 s s.ap m

/-- `ReadOp` of a 16-bit place (R129). -/
def readLoc16 (s : State) : Loc16 → Except Fault Word
  | .reg r => .ok (readReg16 s r)
  | .mem m => memRead16 s s.ap m

/-- `ReadOp` of an 8-bit source (R129). -/
def readSrc8 (s : State) : Src8 → Except Fault Byte
  | .loc l => readLoc8 s l
  | .imm v => .ok v

/-- `ReadOp` of a 16-bit source (R129). -/
def readSrc16 (s : State) : Src16 → Except Fault Word
  | .loc l => readLoc16 s l
  | .imm v => .ok v

/-- `WriteOp` of an 8-bit place (R129). -/
def writeLoc8 (s : State) (l : Loc8) (v : Byte) : Except Fault State :=
  match l with
  | .reg r => .ok (writeReg8 s r v)
  | .mem m => memWrite8 s s.ap m v

/-- `WriteOp` of a 16-bit place (R129). -/
def writeLoc16 (s : State) (l : Loc16) (v : Word) : Except Fault State :=
  match l with
  | .reg r => .ok (writeReg16 s r v)
  | .mem m => memWrite16 s s.ap m v

/-- Copy an 8-bit source into a place, no flag (R150). -/
def copy8 (d : Loc8) (src : Src8) (s : State) : Result :=
  orRaise (readSrc8 s src) fun v => orRaise (writeLoc8 s d v) .next

/-- Copy a 16-bit source into a place, no flag (R150). -/
def copy16 (d : Loc16) (src : Src16) (s : State) : Result :=
  orRaise (readSrc16 s src) fun v => orRaise (writeLoc16 s d v) .next

/-- Write a result and its flags (R160). -/
def finish8 (d : Loc8) (x : Byte × Flags) (s : State) : Result :=
  orRaise (writeLoc8 s d x.1) fun t => .next { t with flags := x.2 }

/-- Write a result and its flags. -/
def finish16 (d : Loc16) (x : Word × Flags) (s : State) : Result :=
  orRaise (writeLoc16 s d x.1) fun t => .next { t with flags := x.2 }

/-- A two-operand ALU instruction at width 8: destination op source into the destination (R128). -/
def binary8 (f : Byte → Byte → Flags → Byte × Flags) (d : Loc8) (src : Src8) (s : State) : Result :=
  orRaise (readLoc8 s d) fun a => orRaise (readSrc8 s src) fun b => finish8 d (f a b s.flags) s

/-- A two-operand ALU instruction at width 16. -/
def binary16 (f : Word → Word → Flags → Word × Flags) (d : Loc16) (src : Src16) (s : State) : Result :=
  orRaise (readLoc16 s d) fun a => orRaise (readSrc16 s src) fun b => finish16 d (f a b s.flags) s

/-- A one-operand ALU instruction at width 8: the operand is source and destination (R128). -/
def unary8 (f : Byte → Flags → Byte × Flags) (d : Loc8) (s : State) : Result :=
  orRaise (readLoc8 s d) fun a => finish8 d (f a s.flags) s

/-- A one-operand ALU instruction at width 16. -/
def unary16 (f : Word → Flags → Word × Flags) (d : Loc16) (s : State) : Result :=
  orRaise (readLoc16 s d) fun a => finish16 d (f a s.flags) s

end Sys2Proof.Machine
end

