-- ==== Sys2Proof/Machine/Arith.lean ====
section
/-! DEFINITION. Arithmetic: `add`, `sub`, `neg`, `inc`, `dec` (R160 to R164). -/

namespace Sys2Proof.Machine

/-- `add` (mem8, reg8) (R160). -/
def execAddMem8Reg8 (m : Word) (r : Reg8) (s : State) : Result :=
  binary8 aluAdd (.mem m) (.loc (.reg r)) s

/-- `add` (mem16, reg16) (R160). -/
def execAddMem16Reg16 (m : Word) (r : Reg16) (s : State) : Result :=
  binary16 aluAdd (.mem m) (.loc (.reg r)) s

/-- `add` (reg8, mem8) (R160). -/
def execAddReg8Mem8 (r : Reg8) (m : Word) (s : State) : Result :=
  binary8 aluAdd (.reg r) (.loc (.mem m)) s

/-- `add` (reg16, mem16) (R160). -/
def execAddReg16Mem16 (r : Reg16) (m : Word) (s : State) : Result :=
  binary16 aluAdd (.reg r) (.loc (.mem m)) s

/-- `add` (reg8, reg8) (R160). -/
def execAddReg8Reg8 (d : Reg8) (r : Reg8) (s : State) : Result :=
  binary8 aluAdd (.reg d) (.loc (.reg r)) s

/-- `add` (reg16, reg16) (R160). -/
def execAddReg16Reg16 (d : Reg16) (r : Reg16) (s : State) : Result :=
  binary16 aluAdd (.reg d) (.loc (.reg r)) s

/-- `add` (reg8, imm8) (R160). -/
def execAddReg8Imm8 (d : Reg8) (v : Byte) (s : State) : Result :=
  binary8 aluAdd (.reg d) (.imm v) s

/-- `add` (reg16, imm16) (R160). -/
def execAddReg16Imm16 (d : Reg16) (v : Word) (s : State) : Result :=
  binary16 aluAdd (.reg d) (.imm v) s

/-- `sub` (mem8, reg8) (R161). -/
def execSubMem8Reg8 (m : Word) (r : Reg8) (s : State) : Result :=
  binary8 aluSub (.mem m) (.loc (.reg r)) s

/-- `sub` (mem16, reg16) (R161). -/
def execSubMem16Reg16 (m : Word) (r : Reg16) (s : State) : Result :=
  binary16 aluSub (.mem m) (.loc (.reg r)) s

/-- `sub` (reg8, mem8) (R161). -/
def execSubReg8Mem8 (r : Reg8) (m : Word) (s : State) : Result :=
  binary8 aluSub (.reg r) (.loc (.mem m)) s

/-- `sub` (reg16, mem16) (R161). -/
def execSubReg16Mem16 (r : Reg16) (m : Word) (s : State) : Result :=
  binary16 aluSub (.reg r) (.loc (.mem m)) s

/-- `sub` (reg8, reg8) (R161). -/
def execSubReg8Reg8 (d : Reg8) (r : Reg8) (s : State) : Result :=
  binary8 aluSub (.reg d) (.loc (.reg r)) s

/-- `sub` (reg16, reg16) (R161). -/
def execSubReg16Reg16 (d : Reg16) (r : Reg16) (s : State) : Result :=
  binary16 aluSub (.reg d) (.loc (.reg r)) s

/-- `sub` (reg8, imm8) (R161). -/
def execSubReg8Imm8 (d : Reg8) (v : Byte) (s : State) : Result :=
  binary8 aluSub (.reg d) (.imm v) s

/-- `sub` (reg16, imm16) (R161). -/
def execSubReg16Imm16 (d : Reg16) (v : Word) (s : State) : Result :=
  binary16 aluSub (.reg d) (.imm v) s

/-- `neg` (reg8) (R162). -/
def execNegReg8 (d : Reg8) (s : State) : Result :=
  unary8 aluNeg (.reg d) s

/-- `neg` (reg16) (R162). -/
def execNegReg16 (d : Reg16) (s : State) : Result :=
  unary16 aluNeg (.reg d) s

/-- `inc` (reg8) (R163). -/
def execIncReg8 (d : Reg8) (s : State) : Result :=
  unary8 aluInc (.reg d) s

/-- `inc` (reg16) (R163). -/
def execIncReg16 (d : Reg16) (s : State) : Result :=
  unary16 aluInc (.reg d) s

/-- `dec` (reg8) (R164). -/
def execDecReg8 (d : Reg8) (s : State) : Result :=
  unary8 aluDec (.reg d) s

/-- `dec` (reg16) (R164). -/
def execDecReg16 (d : Reg16) (s : State) : Result :=
  unary16 aluDec (.reg d) s

end Sys2Proof.Machine
end

