-- ==== Sys2Proof/Machine/Logic.lean ====
section
/-! DEFINITION. Logic: `and`, `or`, `xor`, `not` (R170 to R173). -/

namespace Sys2Proof.Machine

/-- `and` (mem8, reg8) (R170). -/
def execAndMem8Reg8 (m : Word) (r : Reg8) (s : State) : Result :=
  binary8 aluAnd (.mem m) (.loc (.reg r)) s

/-- `and` (mem16, reg16) (R170). -/
def execAndMem16Reg16 (m : Word) (r : Reg16) (s : State) : Result :=
  binary16 aluAnd (.mem m) (.loc (.reg r)) s

/-- `and` (reg8, mem8) (R170). -/
def execAndReg8Mem8 (r : Reg8) (m : Word) (s : State) : Result :=
  binary8 aluAnd (.reg r) (.loc (.mem m)) s

/-- `and` (reg16, mem16) (R170). -/
def execAndReg16Mem16 (r : Reg16) (m : Word) (s : State) : Result :=
  binary16 aluAnd (.reg r) (.loc (.mem m)) s

/-- `and` (reg8, reg8) (R170). -/
def execAndReg8Reg8 (d : Reg8) (r : Reg8) (s : State) : Result :=
  binary8 aluAnd (.reg d) (.loc (.reg r)) s

/-- `and` (reg16, reg16) (R170). -/
def execAndReg16Reg16 (d : Reg16) (r : Reg16) (s : State) : Result :=
  binary16 aluAnd (.reg d) (.loc (.reg r)) s

/-- `and` (reg8, imm8) (R170). -/
def execAndReg8Imm8 (d : Reg8) (v : Byte) (s : State) : Result :=
  binary8 aluAnd (.reg d) (.imm v) s

/-- `and` (reg16, imm16) (R170). -/
def execAndReg16Imm16 (d : Reg16) (v : Word) (s : State) : Result :=
  binary16 aluAnd (.reg d) (.imm v) s

/-- `or` (mem8, reg8) (R171). -/
def execOrMem8Reg8 (m : Word) (r : Reg8) (s : State) : Result :=
  binary8 aluOr (.mem m) (.loc (.reg r)) s

/-- `or` (mem16, reg16) (R171). -/
def execOrMem16Reg16 (m : Word) (r : Reg16) (s : State) : Result :=
  binary16 aluOr (.mem m) (.loc (.reg r)) s

/-- `or` (reg8, mem8) (R171). -/
def execOrReg8Mem8 (r : Reg8) (m : Word) (s : State) : Result :=
  binary8 aluOr (.reg r) (.loc (.mem m)) s

/-- `or` (reg16, mem16) (R171). -/
def execOrReg16Mem16 (r : Reg16) (m : Word) (s : State) : Result :=
  binary16 aluOr (.reg r) (.loc (.mem m)) s

/-- `or` (reg8, reg8) (R171). -/
def execOrReg8Reg8 (d : Reg8) (r : Reg8) (s : State) : Result :=
  binary8 aluOr (.reg d) (.loc (.reg r)) s

/-- `or` (reg16, reg16) (R171). -/
def execOrReg16Reg16 (d : Reg16) (r : Reg16) (s : State) : Result :=
  binary16 aluOr (.reg d) (.loc (.reg r)) s

/-- `or` (reg8, imm8) (R171). -/
def execOrReg8Imm8 (d : Reg8) (v : Byte) (s : State) : Result :=
  binary8 aluOr (.reg d) (.imm v) s

/-- `or` (reg16, imm16) (R171). -/
def execOrReg16Imm16 (d : Reg16) (v : Word) (s : State) : Result :=
  binary16 aluOr (.reg d) (.imm v) s

/-- `xor` (mem8, reg8) (R172). -/
def execXorMem8Reg8 (m : Word) (r : Reg8) (s : State) : Result :=
  binary8 aluXor (.mem m) (.loc (.reg r)) s

/-- `xor` (mem16, reg16) (R172). -/
def execXorMem16Reg16 (m : Word) (r : Reg16) (s : State) : Result :=
  binary16 aluXor (.mem m) (.loc (.reg r)) s

/-- `xor` (reg8, mem8) (R172). -/
def execXorReg8Mem8 (r : Reg8) (m : Word) (s : State) : Result :=
  binary8 aluXor (.reg r) (.loc (.mem m)) s

/-- `xor` (reg16, mem16) (R172). -/
def execXorReg16Mem16 (r : Reg16) (m : Word) (s : State) : Result :=
  binary16 aluXor (.reg r) (.loc (.mem m)) s

/-- `xor` (reg8, reg8) (R172). -/
def execXorReg8Reg8 (d : Reg8) (r : Reg8) (s : State) : Result :=
  binary8 aluXor (.reg d) (.loc (.reg r)) s

/-- `xor` (reg16, reg16) (R172). -/
def execXorReg16Reg16 (d : Reg16) (r : Reg16) (s : State) : Result :=
  binary16 aluXor (.reg d) (.loc (.reg r)) s

/-- `xor` (reg8, imm8) (R172). -/
def execXorReg8Imm8 (d : Reg8) (v : Byte) (s : State) : Result :=
  binary8 aluXor (.reg d) (.imm v) s

/-- `xor` (reg16, imm16) (R172). -/
def execXorReg16Imm16 (d : Reg16) (v : Word) (s : State) : Result :=
  binary16 aluXor (.reg d) (.imm v) s

/-- `not` (reg8) (R173). -/
def execNotReg8 (d : Reg8) (s : State) : Result :=
  unary8 aluNot (.reg d) s

/-- `not` (reg16) (R173). -/
def execNotReg16 (d : Reg16) (s : State) : Result :=
  unary16 aluNot (.reg d) s

end Sys2Proof.Machine
end

