-- ==== Sys2Proof/Machine/Move.lean ====
section
/-! DEFINITION. Data movement: `mov` (R150). -/

namespace Sys2Proof.Machine

/-- `mov` (mem8, reg8) (R150). -/
def execMovMem8Reg8 (m : Word) (r : Reg8) (s : State) : Result :=
  copy8 (.mem m) (.loc (.reg r)) s

/-- `mov` (mem16, reg16) (R150). -/
def execMovMem16Reg16 (m : Word) (r : Reg16) (s : State) : Result :=
  copy16 (.mem m) (.loc (.reg r)) s

/-- `mov` (reg8, mem8) (R150). -/
def execMovReg8Mem8 (r : Reg8) (m : Word) (s : State) : Result :=
  copy8 (.reg r) (.loc (.mem m)) s

/-- `mov` (reg16, mem16) (R150). -/
def execMovReg16Mem16 (r : Reg16) (m : Word) (s : State) : Result :=
  copy16 (.reg r) (.loc (.mem m)) s

/-- `mov` (reg8, reg8) (R150). -/
def execMovReg8Reg8 (d : Reg8) (r : Reg8) (s : State) : Result :=
  copy8 (.reg d) (.loc (.reg r)) s

/-- `mov` (reg16, reg16) (R150). -/
def execMovReg16Reg16 (d : Reg16) (r : Reg16) (s : State) : Result :=
  copy16 (.reg d) (.loc (.reg r)) s

/-- `mov` (reg8, imm8) (R150). -/
def execMovReg8Imm8 (d : Reg8) (v : Byte) (s : State) : Result :=
  copy8 (.reg d) (.imm v) s

/-- `mov` (reg16, imm16) (R150). -/
def execMovReg16Imm16 (d : Reg16) (v : Word) (s : State) : Result :=
  copy16 (.reg d) (.imm v) s

end Sys2Proof.Machine
end

