-- ==== Sys2Proof/Machine/Services.lean ====
section
/-! DEFINITION. `int` and its three services (R195 to R199). -/

namespace Sys2Proof.Machine

/-- The page of a service's string or buffer (R196). -/
def servicePage (s : State) : Word := readReg16 s s.cfg.services.pageReg

/-- The offset of a service's string or buffer (R196). -/
def serviceOffset (s : State) : Word := readReg16 s s.cfg.services.offReg

/-- The bytes from index `a` on, up to but not including the first terminator, among at most `n` bytes; `none` when none of
them is the terminator (R197). -/
def scanString (m : Memory) (term : Byte) : Nat → Nat → Option (List Byte)
  | _, 0 => none
  | a, n + 1 =>
    if readPhys m a = term then some []
    else (scanString m term (a + 1) n).map (fun bs => readPhys m a :: bs)

/-- The print service (R197): the string must end before the page does. -/
def printService (s : State) : Result :=
  if validPage s.cfg (servicePage s) then
    match scanString s.mem s.cfg.services.terminator (phys (servicePage s) (serviceOffset s))
        (pageSize - (serviceOffset s).toNat) with
    | some bytes => .next (emit s (.output bytes))
    | none => raiseError .addressOutOfRange
  else raiseError .addressOutOfRange

/-- Store a line and the terminator at a service's buffer (R198). -/
def storeLine (s : State) (line : List Byte) : State :=
  { s with mem := writeBytes s.mem (phys (servicePage s) (serviceOffset s)) (line ++ [s.cfg.services.terminator]) }

/-- The read-line service (R198): the line and the terminator must fit in the page. -/
def readLineService (s : State) : Result :=
  if validPage s.cfg (servicePage s) then
    let d := drawLine s
    if (serviceOffset s).toNat + d.1.length ≤ 0xFFFF then
      .next (emit (storeLine d.2 d.1) (.inputTaken d.1))
    else raiseError .addressOutOfRange
  else raiseError .addressOutOfRange

/-- The terminate service (R199): the host is told; the engine does not stop itself. -/
def terminateService (s : State) : Result := .next (emit s .terminateRequest)

/-- `int` (imm8): the operand selects the service (R195). -/
def execIntImm8 (n : Byte) (s : State) : Result :=
  if n = s.cfg.services.printNo then printService s
  else if n = s.cfg.services.readLineNo then readLineService s
  else if n = s.cfg.services.terminateNo then terminateService s
  else raiseError (.unsupportedService n)

end Sys2Proof.Machine
end

