-- ==== Sys2Proof/Machine/ShiftRotate.lean ====
section
/-! DEFINITION. Shifts and rotates by one bit: `shl`, `shr`, `rol`, `ror` (R180 to R183). -/

namespace Sys2Proof.Machine

/-- `shl` (reg8) (R180). -/
def execShlReg8 (d : Reg8) (s : State) : Result :=
  unary8 aluShl (.reg d) s

/-- `shl` (reg16) (R180). -/
def execShlReg16 (d : Reg16) (s : State) : Result :=
  unary16 aluShl (.reg d) s

/-- `shr` (reg8) (R181). -/
def execShrReg8 (d : Reg8) (s : State) : Result :=
  unary8 aluShr (.reg d) s

/-- `shr` (reg16) (R181). -/
def execShrReg16 (d : Reg16) (s : State) : Result :=
  unary16 aluShr (.reg d) s

/-- `rol` (reg8) (R182). -/
def execRolReg8 (d : Reg8) (s : State) : Result :=
  unary8 aluRol (.reg d) s

/-- `rol` (reg16) (R182). -/
def execRolReg16 (d : Reg16) (s : State) : Result :=
  unary16 aluRol (.reg d) s

/-- `ror` (reg8) (R183). -/
def execRorReg8 (d : Reg8) (s : State) : Result :=
  unary8 aluRor (.reg d) s

/-- `ror` (reg16) (R183). -/
def execRorReg16 (d : Reg16) (s : State) : Result :=
  unary16 aluRor (.reg d) s

end Sys2Proof.Machine
end

