-- ==== Sys2Proof/Machine/Stack.lean ====
section
/-! DEFINITION. The stack instructions `push` and `pop` (R190, R191). The top of stack is (AP, SP); nothing wraps inside an
access. -/

namespace Sys2Proof.Machine

/-- Push a 16-bit value: refused when SP is 0 or 1, else stored below SP, little-endian, and SP lowered by 2 (R190). -/
def pushWord (v : Word) (s : State) : Result :=
  if (readReg16 s .sp).toNat < 2 then raiseError .addressOutOfRange
  else
    let t := readReg16 s .sp - 2
    orRaise (memWrite16 s s.ap t v) fun u => .next (writeReg16 u .sp t)

/-- `push` (reg16): the operand is read before SP changes (R190). -/
def execPushReg16 (r : Reg16) (s : State) : Result := pushWord (readReg16 s r) s

/-- `pop` (reg16): the value at SP, SP raised by 2 modulo 65536, then the destination written (R191). The read's bounds
give the error at SP = 0xFFFF. -/
def execPopReg16 (d : Reg16) (s : State) : Result :=
  orRaise (memRead16 s s.ap (readReg16 s .sp)) fun v =>
    .next (writeReg16 (writeReg16 s .sp (readReg16 s .sp + 2)) d v)

end Sys2Proof.Machine
end

