-- ==== Sys2Proof/Machine/Dispatch.lean ====
section
/-! DEFINITION. `exec`, the executor (R123): one arm per row of the opcode table. -/

namespace Sys2Proof.Machine

def exec (i : Instr) (s : State) : Host.Outcome State Fault Refusal :=
  match i with
  | .movMem8Reg8 m r => Sys2Proof.Machine.execMovMem8Reg8 m r s
  | .movMem16Reg16 m r => Sys2Proof.Machine.execMovMem16Reg16 m r s
  | .movReg8Mem8 r m => Sys2Proof.Machine.execMovReg8Mem8 r m s
  | .movReg16Mem16 r m => Sys2Proof.Machine.execMovReg16Mem16 r m s
  | .movReg8Reg8 d r => Sys2Proof.Machine.execMovReg8Reg8 d r s
  | .movReg16Reg16 d r => Sys2Proof.Machine.execMovReg16Reg16 d r s
  | .movReg8Imm8 d v => Sys2Proof.Machine.execMovReg8Imm8 d v s
  | .movReg16Imm16 d v => Sys2Proof.Machine.execMovReg16Imm16 d v s
  | .addMem8Reg8 m r => Sys2Proof.Machine.execAddMem8Reg8 m r s
  | .addMem16Reg16 m r => Sys2Proof.Machine.execAddMem16Reg16 m r s
  | .addReg8Mem8 r m => Sys2Proof.Machine.execAddReg8Mem8 r m s
  | .addReg16Mem16 r m => Sys2Proof.Machine.execAddReg16Mem16 r m s
  | .addReg8Reg8 d r => Sys2Proof.Machine.execAddReg8Reg8 d r s
  | .addReg16Reg16 d r => Sys2Proof.Machine.execAddReg16Reg16 d r s
  | .addReg8Imm8 d v => Sys2Proof.Machine.execAddReg8Imm8 d v s
  | .addReg16Imm16 d v => Sys2Proof.Machine.execAddReg16Imm16 d v s
  | .subMem8Reg8 m r => Sys2Proof.Machine.execSubMem8Reg8 m r s
  | .subMem16Reg16 m r => Sys2Proof.Machine.execSubMem16Reg16 m r s
  | .subReg8Mem8 r m => Sys2Proof.Machine.execSubReg8Mem8 r m s
  | .subReg16Mem16 r m => Sys2Proof.Machine.execSubReg16Mem16 r m s
  | .subReg8Reg8 d r => Sys2Proof.Machine.execSubReg8Reg8 d r s
  | .subReg16Reg16 d r => Sys2Proof.Machine.execSubReg16Reg16 d r s
  | .subReg8Imm8 d v => Sys2Proof.Machine.execSubReg8Imm8 d v s
  | .subReg16Imm16 d v => Sys2Proof.Machine.execSubReg16Imm16 d v s
  | .andMem8Reg8 m r => Sys2Proof.Machine.execAndMem8Reg8 m r s
  | .andMem16Reg16 m r => Sys2Proof.Machine.execAndMem16Reg16 m r s
  | .andReg8Mem8 r m => Sys2Proof.Machine.execAndReg8Mem8 r m s
  | .andReg16Mem16 r m => Sys2Proof.Machine.execAndReg16Mem16 r m s
  | .andReg8Reg8 d r => Sys2Proof.Machine.execAndReg8Reg8 d r s
  | .andReg16Reg16 d r => Sys2Proof.Machine.execAndReg16Reg16 d r s
  | .andReg8Imm8 d v => Sys2Proof.Machine.execAndReg8Imm8 d v s
  | .andReg16Imm16 d v => Sys2Proof.Machine.execAndReg16Imm16 d v s
  | .orMem8Reg8 m r => Sys2Proof.Machine.execOrMem8Reg8 m r s
  | .orMem16Reg16 m r => Sys2Proof.Machine.execOrMem16Reg16 m r s
  | .orReg8Mem8 r m => Sys2Proof.Machine.execOrReg8Mem8 r m s
  | .orReg16Mem16 r m => Sys2Proof.Machine.execOrReg16Mem16 r m s
  | .orReg8Reg8 d r => Sys2Proof.Machine.execOrReg8Reg8 d r s
  | .orReg16Reg16 d r => Sys2Proof.Machine.execOrReg16Reg16 d r s
  | .orReg8Imm8 d v => Sys2Proof.Machine.execOrReg8Imm8 d v s
  | .orReg16Imm16 d v => Sys2Proof.Machine.execOrReg16Imm16 d v s
  | .xorMem8Reg8 m r => Sys2Proof.Machine.execXorMem8Reg8 m r s
  | .xorMem16Reg16 m r => Sys2Proof.Machine.execXorMem16Reg16 m r s
  | .xorReg8Mem8 r m => Sys2Proof.Machine.execXorReg8Mem8 r m s
  | .xorReg16Mem16 r m => Sys2Proof.Machine.execXorReg16Mem16 r m s
  | .xorReg8Reg8 d r => Sys2Proof.Machine.execXorReg8Reg8 d r s
  | .xorReg16Reg16 d r => Sys2Proof.Machine.execXorReg16Reg16 d r s
  | .xorReg8Imm8 d v => Sys2Proof.Machine.execXorReg8Imm8 d v s
  | .xorReg16Imm16 d v => Sys2Proof.Machine.execXorReg16Imm16 d v s
  | .notReg8 d => Sys2Proof.Machine.execNotReg8 d s
  | .notReg16 d => Sys2Proof.Machine.execNotReg16 d s
  | .negReg8 d => Sys2Proof.Machine.execNegReg8 d s
  | .negReg16 d => Sys2Proof.Machine.execNegReg16 d s
  | .incReg8 d => Sys2Proof.Machine.execIncReg8 d s
  | .incReg16 d => Sys2Proof.Machine.execIncReg16 d s
  | .decReg8 d => Sys2Proof.Machine.execDecReg8 d s
  | .decReg16 d => Sys2Proof.Machine.execDecReg16 d s
  | .shlReg8 d => Sys2Proof.Machine.execShlReg8 d s
  | .shlReg16 d => Sys2Proof.Machine.execShlReg16 d s
  | .shrReg8 d => Sys2Proof.Machine.execShrReg8 d s
  | .shrReg16 d => Sys2Proof.Machine.execShrReg16 d s
  | .rolReg8 d => Sys2Proof.Machine.execRolReg8 d s
  | .rolReg16 d => Sys2Proof.Machine.execRolReg16 d s
  | .rorReg8 d => Sys2Proof.Machine.execRorReg8 d s
  | .rorReg16 d => Sys2Proof.Machine.execRorReg16 d s
  | .pushReg16 r => Sys2Proof.Machine.execPushReg16 r s
  | .popReg16 d => Sys2Proof.Machine.execPopReg16 d s
  | .intImm8 n => Sys2Proof.Machine.execIntImm8 n s

end Sys2Proof.Machine
end

