-- ==== Sys2Proof/Machine/Step.lean ====
section
/-! DEFINITION. One step of the machine: the STEP command (R124), and placing an instruction where it fetches. -/

namespace Sys2Proof.Machine

/-- STEP (R124): fetch at (AP, IP), decode, execute, advance IP past the instruction. On an error nothing changes. -/
def step (s : State) : Host.Outcome State Fault Refusal :=
  match fetchInstr s with
  | .error f => raiseError f
  | .ok (i, len) =>
    match exec i s with
    | .next t => .next (advanceIp t len)
    | .fault f => .fault f
    | .refused r => .refused r

/-- `s` with the four bytes of a table word stored at (AP, IP), where `step` fetches next. Bytes that would lie past the end
of the page are not stored (log entry 6). -/
def State.withFetchWord (s : State) (nbits w : Nat) : State :=
  { s with mem := writeBytes s.mem (phys s.ap s.ip) ((tableBytes nbits w).take (pageSize - s.ip.toNat)) }

end Sys2Proof.Machine
end

