-- ==== Sys2Proof/Machine/Errors.lean ====
section
/-! DEFINITION. The error kinds a command can end with (R250), and the error a fault of STEP or EXEC is. -/

namespace Sys2Proof.Machine

/-- The taxonomy of R250, with what each kind carries. -/
inductive Err where
  /-- the excluded command line's only; no command of the model raises it -/
  | parseError (line : Text)
  /-- AssembleError.UnknownMnemonic (R102) -/
  | asmUnknownMnemonic (token : Text)
  /-- AssembleError.OperandCountMismatch (R102) -/
  | asmOperandCountMismatch (token : Text)
  /-- AssembleError.MalformedLiteral (R102) -/
  | asmMalformedLiteral (token : Text)
  /-- AssembleError.NoMatchingEntry (R102) -/
  | asmNoMatchingEntry (token : Text)
  /-- DisassembleDiagnostic, as the error of STEP (R124) -/
  | disassembleDiagnostic (offset : Word) (byte : Byte) (reason : DiagReason)
  /-- ExecError.OperandTypeMismatch (R123) -/
  | operandTypeMismatch (d : Decoded)
  /-- ExecError.UnsupportedMnemonic (R123) -/
  | unsupportedMnemonic (name : Text)
  /-- ExecError.UnsupportedService (R195) -/
  | unsupportedService (n : Byte)
  /-- ExecError.AddressOutOfRange (R252) -/
  | addressOutOfRange
  /-- OverlapError of MOVE (R217) -/
  | overlapError
  /-- OutOfRange of the memory and disk commands (R210, R237) -/
  | outOfRange
  /-- UnknownRegister (R16) -/
  | unknownRegister (name : Text)
  /-- UnknownFlag (R16) -/
  | unknownFlag (name : Text)
  deriving DecidableEq, Repr

/-- The numeric code of an error kind (R250). -/
def Err.code : Err → Nat
  | .parseError _ => 1
  | .asmUnknownMnemonic _ => 2
  | .asmOperandCountMismatch _ => 3
  | .asmMalformedLiteral _ => 4
  | .asmNoMatchingEntry _ => 5
  | .disassembleDiagnostic _ _ _ => 6
  | .operandTypeMismatch _ => 7
  | .unsupportedMnemonic _ => 8
  | .unsupportedService _ => 9
  | .addressOutOfRange => 10
  | .overlapError => 11
  | .outOfRange => 12
  | .unknownRegister _ => 13
  | .unknownFlag _ => 14

/-- The error a fault of the executor or of the fetch is (R250). -/
def errOfFault : Fault → Err
  | .disassembleDiagnostic o b r => .disassembleDiagnostic o b r
  | .addressOutOfRange => .addressOutOfRange
  | .unsupportedService n => .unsupportedService n
  | .outOfRange => .outOfRange

end Sys2Proof.Machine
end

