-- ==== Sys2Proof/Machine/Assembler.lean ====
section
/-! DEFINITION. The assembler: one line of text to the bytes of one instruction (R98 to R103). -/

namespace Sys2Proof.Machine

/-- A token separator (R98). -/
def isSeparator (c : Char) : Bool := c == ' ' || c == ','

/-- Put one character before the pieces of the rest of a line. -/
def consChar (c : Char) (pieces : List Text) : List Text :=
  if isSeparator c then [] :: pieces
  else
    match pieces with
    | [] => [[c]]
    | t :: ts => (c :: t) :: ts

/-- The tokens of a line: leading, trailing and repeated separators are ignored (R98). -/
def tokenize (line : Text) : List Text := (line.foldr consChar [[]]).filter (fun t => !t.isEmpty)

/-- The value of a hexadecimal digit. -/
def hexDigit (c : Char) : Option Nat :=
  if 48 ≤ c.toNat ∧ c.toNat ≤ 57 then some (c.toNat - 48)
  else if 65 ≤ c.toNat ∧ c.toNat ≤ 70 then some (c.toNat - 55)
  else if 97 ≤ c.toNat ∧ c.toNat ≤ 102 then some (c.toNat - 87)
  else none

/-- The value of a digit in a base. -/
def digitIn (base : Nat) (c : Char) : Option Nat := (hexDigit c).filter (fun d => d < base)

/-- The value of a non-empty text of digits in a base. -/
def numeral (base : Nat) (t : Text) : Option Nat :=
  if t.isEmpty then none
  else t.foldl (fun acc c => acc.bind fun n => (digitIn base c).map fun d => base * n + d) (some 0)

/-- One reading of a token (R99). -/
inductive Reading where
  | reg8 (r : Reg8)
  | reg16 (r : Reg16)
  | imm (v : Nat)
  | mem (m : Nat)
  deriving DecidableEq, Repr

/-- The readings of a token without a radix prefix: decimal digits are an immediate and also a hexadecimal offset; other
hexadecimal digits are an offset (R99, cases 3 and 4). -/
def bareReadings (t : Text) : List Reading :=
  match numeral 10 t, numeral 16 t with
  | some v, some m => [.imm v, .mem m]
  | none, some m => [.mem m]
  | _, none => []

/-- The set of candidate readings of a token (R99). A token `0b` with a digit that is not binary is no binary literal, and
being hexadecimal digits with a letter it is an offset. DESIGN CHOICE, log entry 11; safe. -/
def classify (c : Config) (t : Text) : List Reading :=
  match regOfName c t with
  | some (.reg16 r) => [.reg16 r]
  | some (.reg8 r) => [.reg8 r]
  | none =>
    match t with
    | '0' :: 'x' :: ds | '0' :: 'X' :: ds => ((numeral 16 ds).map Reading.imm).toList
    | '0' :: 'b' :: ds =>
      match numeral 2 ds with
      | some v => [.imm v]
      | none => bareReadings t
    | _ => bareReadings t

/-- The operand a reading gives for a shape, where it fits (R99). -/
def Reading.fit : Reading → Shape → Option Operand
  | .reg8 r, .reg8 => some (.reg8 r)
  | .reg16 r, .reg16 => some (.reg16 r)
  | .imm v, .imm8 => if v ≤ 0xFF then some (.imm8 (BitVec.ofNat 8 v)) else none
  | .imm v, .imm16 => if v ≤ 0xFFFF then some (.imm16 (BitVec.ofNat 16 v)) else none
  | .mem m, .mem8 => if m ≤ 0xFFFF then some (.mem8 (BitVec.ofNat 16 m)) else none
  | .mem m, .mem16 => if m ≤ 0xFFFF then some (.mem16 (BitVec.ofNat 16 m)) else none
  | _, _ => none

/-- Whether a reading's value is within 16 bits (R99). -/
def Reading.inRange : Reading → Bool
  | .imm v => decide (v ≤ 0xFFFF)
  | .mem m => decide (m ≤ 0xFFFF)
  | .reg8 _ | .reg16 _ => true

/-- A token is malformed when it has no reading, or exceeds 0xFFFF in every reading (R99). -/
def malformed (c : Config) (t : Text) : Bool := !(classify c t).any Reading.inRange

/-- The operand a token gives for a shape: the first reading that fits (R99, R101). -/
def fitToken (c : Config) (t : Text) (sh : Shape) : Option Operand :=
  (classify c t).findSome? (fun r => r.fit sh)

/-- Keep, position by position, the entries whose shape there is fitted by the token there; the token at the first position
where none is left is the error's (R100, R102). -/
def narrow (c : Config) : List Entry → List (Text × Nat) → Except Err (List Entry)
  | es, [] => .ok es
  | es, (t, k) :: ts =>
    let kept := es.filter fun e => ((e.signature[k]?).bind (fitToken c t)).isSome
    if kept.isEmpty then .error (.asmNoMatchingEntry t) else narrow c kept ts

/-- The operands of an entry from its tokens (R101). -/
def operandsFor (c : Config) (e : Entry) (toks : List Text) : List Operand :=
  (toks.zip e.signature).filterMap fun p => fitToken c p.1 p.2

/-- Lookup and emission for a known mnemonic with well-formed operand tokens (R100, R101, R102). -/
def assembleOperands (c : Config) (mn : Text) (m : Mnemonic) (toks : List Text) : Except Err (List Byte) :=
  let cands := c.opTable.filter fun e => e.mnemonic == m && e.signature.length == toks.length
  if cands.isEmpty then .error (.asmOperandCountMismatch mn)
  else
    match narrow c cands toks.zipIdx with
    | .error e => .error e
    | .ok [] => .error (.asmNoMatchingEntry mn)
    | .ok (e :: _) => .ok (encodeParts c e (operandsFor c e toks))

/-- Assemble a line (R98 to R102). The checks come in R102's order: mnemonic, literals, count, entry. A line with no token
has the empty mnemonic (log entry 9). -/
def assemble (c : Config) (line : Text) : Except Err (List Byte) :=
  match tokenize line with
  | [] => .error (.asmUnknownMnemonic [])
  | mn :: toks =>
    match Mnemonic.ofName mn with
    | none => .error (.asmUnknownMnemonic mn)
    | some m =>
      match toks.find? (malformed c) with
      | some t => .error (.asmMalformedLiteral t)
      | none => assembleOperands c mn m toks

end Sys2Proof.Machine
end

