-- ==== Sys2Proof/Machine/Disassembler.lean ====
section
/-! DEFINITION. The disassembler: the text of an instruction (R96) and the sequence over a range of memory (R95). -/

namespace Sys2Proof.Machine

/-- A hexadecimal digit in upper case. -/
def hexChar (n : Nat) : Char := if n < 10 then Char.ofNat (48 + n) else Char.ofNat (55 + n)

/-- Two upper-case hexadecimal digits. -/
def hex2 (b : Byte) : Text := [hexChar (b.toNat / 16), hexChar (b.toNat % 16)]

/-- Four upper-case hexadecimal digits. -/
def hex4 (v : Word) : Text := hex2 (highByte v) ++ hex2 (lowByte v)

/-- The text of an operand (R96). No instruction has a `rel` operand; it would be rendered as an offset. -/
def operandText : Operand → Text
  | .reg8 r => r.name
  | .reg16 r => r.name
  | .imm8 v => '0' :: 'x' :: hex2 v
  | .imm16 v => '0' :: 'x' :: hex4 v
  | .mem8 m | .mem16 m | .rel8 m | .rel16 m => hex4 m

/-- `Text(instr)` (R96): the mnemonic, one space, the operands separated by a comma and a space. -/
def instrText (i : Instr) : Text :=
  i.mnemonic.name ++ ' ' :: [',', ' '].intercalate (i.operands.map operandText)

/-- One element of the disassembly sequence (R95): its text or its diagnostic, and the offset that follows it. -/
inductive ListItem where
  | instr (text : Text) (len : Nat) (next : Nat)
  | diagnostic (offset : Word) (byte : Byte) (reason : DiagReason) (next : Nat)
  deriving DecidableEq, Repr

/-- The sequence of DISASM from offset `o` on (R95), bytes past `last` being out of reach. Each element moves at least one
byte on, so as many rounds as bytes suffice. -/
def disasmFrom (c : Config) (m : Memory) (p : Word) (last : Nat) : Nat → Nat → List ListItem
  | 0, _ => []
  | k + 1, o =>
    if o ≤ last then
      match decode c (readBytes m (p.toNat * pageSize + o) (min 4 (last + 1 - o))) with
      | .ok (i, len) => .instr (instrText i) len (o + len) :: disasmFrom c m p last k (o + len)
      | .error reason =>
        .diagnostic (BitVec.ofNat 16 o) (readPhys m (p.toNat * pageSize + o)) reason (o + 1) ::
          disasmFrom c m p last k (o + 1)
    else []

/-- The elements of DISASM over the offsets `first` to `last` of a page (R95). -/
def disasm (c : Config) (m : Memory) (p first last : Word) : List ListItem :=
  disasmFrom c m p last.toNat (last.toNat + 1 - first.toNat) first.toNat

end Sys2Proof.Machine
end

