-- ==== Sys2Proof/Machine/MemoryCommands.lean ====
section
/-! DEFINITION. The direct memory commands and the page selector (R210 to R224). -/

namespace Sys2Proof.Machine

/-- An address argument of a command: a page and an offset, or an offset in the active page (R41, R210). -/
inductive Addr where
  | full (p o : Word)
  | offset (o : Word)
  deriving DecidableEq, Repr

/-- A non-empty byte sequence: an empty pattern cannot be given (R213, R215). -/
structure Pattern where
  head : Byte
  tail : List Byte
  deriving DecidableEq, Repr

/-- The bytes of a pattern. -/
def patternBytes (p : Pattern) : List Byte := p.head :: p.tail

/-- The page and offset of an address argument; the page is checked (R41, R210). -/
def locate (s : State) (a : Addr) : Except Err (Word × Word) :=
  let po := match a with
    | .full p o => (p, o)
    | .offset o => (s.ap, o)
  if validPage s.cfg po.1 then .ok po else .error .outOfRange

/-- The length of the inclusive range `start` to `stop` (R210). -/
def rangeLen (start stop : Word) : Nat := stop.toNat - start.toNat + 1

/-- PEEK (R211). -/
def peek (s : State) (a : Addr) : Except Err Byte :=
  match locate s a with
  | .error e => .error e
  | .ok (p, o) => .ok (byteAt s p o)

/-- Store bytes at (p, o), refused when they would pass the end of the page (R212, R223). -/
def storeInPage (s : State) (p o : Word) (bytes : List Byte) : Except Err State :=
  if o.toNat + bytes.length ≤ pageSize then .ok { s with mem := writeBytes s.mem (phys p o) bytes }
  else .error .outOfRange

/-- POKE (R211). -/
def poke (s : State) (a : Addr) (b : Byte) : Except Err State :=
  match locate s a with
  | .error e => .error e
  | .ok (p, o) => .ok { s with mem := writePhys s.mem (phys p o) b }

/-- POKE_STRING (R212). -/
def pokeString (s : State) (a : Addr) (bytes : List Byte) : Except Err State :=
  match locate s a with
  | .error e => .error e
  | .ok (p, o) => storeInPage s p o bytes

/-- The first `n` bytes of a pattern repeated from its first byte (R213). -/
def cycle (p : Pattern) (n : Nat) : List Byte :=
  (List.range n).map fun i => (patternBytes p).getD (i % (patternBytes p).length) 0

/-- FILL (R213): the pattern repeated over the inclusive range; a single zero byte when none is given. -/
def fillRange (s : State) (a : Addr) (stop : Word) (pattern : Option Pattern) : Except Err State :=
  match locate s a with
  | .error e => .error e
  | .ok (p, start) =>
    if start.toNat ≤ stop.toNat then
      .ok { s with mem := writeBytes s.mem (phys p start) (cycle (pattern.getD ⟨0, []⟩) (rangeLen start stop)) }
    else .error .outOfRange

/-- SEARCH (R215): every offset from `start` on where the whole pattern stands inside the page, ascending. -/
def searchPage (s : State) (a : Addr) (pattern : Pattern) : Except Err (List Word) :=
  match locate s a with
  | .error e => .error e
  | .ok (p, start) =>
    let n := (patternBytes pattern).length
    .ok (((List.range' start.toNat (pageSize - start.toNat)).filter fun q =>
      decide (q + n ≤ pageSize) && readBytes s.mem (p.toNat * pageSize + q) n == patternBytes pattern).map
        (BitVec.ofNat 16))

/-- COMPARE (R216): the differing pairs, ascending, with the offset in the first range. -/
def compareRanges (s : State) (a : Addr) (stop : Word) (b : Addr) : Except Err (List (Word × Byte × Byte)) :=
  match locate s a, locate s b with
  | .error e, _ => .error e
  | _, .error e => .error e
  | .ok (pa, start), .ok (pb, other) =>
    if start.toNat ≤ stop.toNat ∧ other.toNat + rangeLen start stop ≤ pageSize then
      .ok ((List.range (rangeLen start stop)).filterMap fun i =>
        let x := readPhys s.mem (phys pa start + i)
        let y := readPhys s.mem (phys pb other + i)
        if x = y then none else some (start + BitVec.ofNat 16 i, x, y))
    else .error .outOfRange

/-- MOVE (R217): copy the range, refusing any shared byte; the range checks come first. -/
def moveRange (s : State) (a : Addr) (stop : Word) (b : Addr) : Except Err State :=
  match locate s a, locate s b with
  | .error e, _ => .error e
  | _, .error e => .error e
  | .ok (ps, start), .ok (pd, dest) =>
    let n := rangeLen start stop
    if start.toNat ≤ stop.toNat ∧ dest.toNat + n ≤ pageSize then
      if ps = pd ∧ start.toNat + 1 ≤ dest.toNat + n ∧ dest.toNat ≤ stop.toNat then .error .overlapError
      else .ok { s with mem := writeBytes s.mem (phys pd dest) (readBytes s.mem (phys ps start) n) }
    else .error .outOfRange

/-- RESOLVE_RANGE (R219): the end is clamped to the page's last offset. The page is AP when none is given. -/
def resolveRange (s : State) (page : Option Word) (start stop : Nat) : Except Err (Word × Nat × Nat) :=
  let p := page.getD s.ap
  if validPage s.cfg p ∧ start ≤ 0xFFFF ∧ start ≤ min stop 0xFFFF then .ok (p, start, min stop 0xFFFF)
  else .error .outOfRange

/-- SET_PAGE (R221). -/
def setPage (s : State) (q : Word) : Except Err State :=
  if validPage s.cfg q then .ok { s with ap := q } else .error .outOfRange

/-- CODE_STORE (R223): store at (AP, CUR) and advance CUR past the bytes, to 0 at the end of the page. -/
def codeStore (s : State) (bytes : List Byte) : Except Err State :=
  match storeInPage s s.ap s.cur bytes with
  | .error e => .error e
  | .ok t => .ok { t with cur := s.cur + BitVec.ofNat 16 bytes.length }

end Sys2Proof.Machine
end

