-- ==== Sys2Proof/Machine/Disk.lean ====
section
/-! DEFINITION. The virtual disk: its commands as one atomic step each (R230 to R240), and the sector unit's state machine
IDLE, CHECK, COPY, byte by byte (R231). -/

namespace Sys2Proof.Machine

/-- The store that holds the given bytes from index `a` on and nothing else. -/
def storeOf : Nat → List Byte → Memory
  | _, [] => []
  | a, b :: bs => if b = unlistedByte then storeOf (a + 1) bs else (a, b) :: storeOf (a + 1) bs

/-- DISK_LOAD (R232): the file's bytes, zero-filled when it is short or absent, the excess ignored when it is long. -/
def diskLoad (s : State) (file : Option (List Byte)) : State :=
  { s with disk := storeOf 0 ((file.getD []).take s.cfg.diskSize) }

/-- DISK_SAVE (R233): the whole buffer as one event. -/
def diskSave (s : State) : State := emit s (.fileImage (readBytes s.disk 0 s.cfg.diskSize))

/-- DISK_BYTES (R239). -/
def diskBytes (s : State) (first last : Nat) : Except Err (List Byte) :=
  if first ≤ last ∧ last < s.cfg.diskSize then .ok (readBytes s.disk first (last + 1 - first))
  else .error .outOfRange

/-- The two conditions a transfer of `count` sectors at the physical index of (p, o) must meet; sums are on naturals (R52,
R235, R237). -/
def transferOk (c : Config) (p o : Word) (first count : Nat) : Bool :=
  decide (first + count ≤ c.sectorCount) && validPage c p &&
    decide (phys p o + count * c.sectorSize ≤ c.memSize)

/-- DISK_READ (R235): sectors to memory, across pages if need be. -/
def diskRead (s : State) (a : Addr) (first count : Nat) : Except Err State :=
  match locate s a with
  | .error e => .error e
  | .ok (p, o) =>
    if transferOk s.cfg p o first count then
      .ok { s with mem := writeBytes s.mem (phys p o)
                            (readBytes s.disk (first * s.cfg.sectorSize) (count * s.cfg.sectorSize)) }
    else .error .outOfRange

/-- DISK_WRITE (R236): memory to sectors. -/
def diskWrite (s : State) (a : Addr) (first count : Nat) : Except Err State :=
  match locate s a with
  | .error e => .error e
  | .ok (p, o) =>
    if transferOk s.cfg p o first count then
      .ok { s with disk := writeBytes s.disk (first * s.cfg.sectorSize)
                             (readBytes s.mem (phys p o) (count * s.cfg.sectorSize)) }
    else .error .outOfRange

/-! ### The sector I/O state machine (R231) -/

/-- The unit's internal states (R231). -/
inductive Phase where
  | idle
  | check
  | copy (i : Nat)
  deriving DecidableEq, Repr

/-- Which way a transfer goes. -/
inductive Direction where
  | diskToMemory
  | memoryToDisk
  deriving DecidableEq, Repr

/-- A transfer command, its address resolved (R235, R236). -/
structure Transfer where
  dir : Direction
  page : Word
  offset : Word
  first : Nat
  count : Nat
  deriving DecidableEq, Repr

/-- The unit with the two stores it copies between, and what it reported. -/
structure SectorUnit where
  phase : Phase
  mem : Memory
  disk : Memory
  /-- `none`: nothing reported yet; `some none`: Ok; `some (some e)`: the error `e` -/
  report : Option (Option Err)
  deriving DecidableEq, Repr

/-- Copy byte `i` of a transfer (R231). -/
def copyByte (c : Config) (t : Transfer) (u : SectorUnit) (i : Nat) : SectorUnit :=
  match t.dir with
  | .diskToMemory =>
    { u with mem := writePhys u.mem (phys t.page t.offset + i) (readPhys u.disk (t.first * c.sectorSize + i)) }
  | .memoryToDisk =>
    { u with disk := writePhys u.disk (t.first * c.sectorSize + i) (readPhys u.mem (phys t.page t.offset + i)) }

/-- One move of the unit (R231). In IDLE there is no transfer to move on. -/
def unitStep (c : Config) (t : Transfer) (u : SectorUnit) : SectorUnit :=
  match u.phase with
  | .idle => u
  | .check =>
    if transferOk c t.page t.offset t.first t.count then { u with phase := .copy 0 }
    else { u with phase := .idle, report := some (some .outOfRange) }
  | .copy i =>
    if i < t.count * c.sectorSize then { copyByte c t u i with phase := .copy (i + 1) }
    else { u with phase := .idle, report := some none }

/-- The unit when it accepts a command in IDLE: it goes to CHECK (R231). -/
def unitStart (s : State) : SectorUnit := { phase := .check, mem := s.mem, disk := s.disk, report := none }

/-- `k` moves of the unit. -/
def unitRun (c : Config) (t : Transfer) : Nat → SectorUnit → SectorUnit
  | 0, u => u
  | k + 1, u => unitRun c t k (unitStep c t u)

end Sys2Proof.Machine
end

