-- ==== Sys2Proof/Machine/Commands.lean ====
section
/-! DEFINITION. The host's commands (R120), the admission check of EXEC (R123), and a session of commands: every command of
the table, its value and its error, the state after an error being the state before (R255). -/

namespace Sys2Proof.Machine

/-! ### EXEC (R122, R123) -/

/-- The decoded form of an instruction (R122). -/
def decodedOf (i : Instr) : Decoded := { mnemonic := i.mnemonic.name, operands := i.operands }

/-- The admission check of EXEC (R123): a mnemonic of the 17, no immediate destination, a key of the table. The last
`none` is never reached with a well-formed table: every key has an instruction. -/
def admission (c : Config) (d : Decoded) : Except Err Instr :=
  match Mnemonic.ofName d.mnemonic with
  | none => .error (.unsupportedMnemonic d.mnemonic)
  | some m =>
    if !destinationOk m d.operands then .error (.operandTypeMismatch d)
    else if !shapesOk c m d.operands then .error (.operandTypeMismatch d)
    else
      match Instr.ofParts m d.operands with
      | some i => .ok i
      | none => .error (.operandTypeMismatch d)

/-! ### Names at the command boundary (R16) -/

/-- A byte of a register: an alias name, or a 16-bit name with `lo` or `hi` (R15, R16). -/
inductive ByteName where
  | alias8 (name : Text)
  | half (name : Text) (h : Half)
  deriving DecidableEq, Repr

/-- The 16-bit register a name argument names (R16). An alias name is no 16-bit name (log entry 7). -/
def lookupReg16 (c : Config) (name : Text) : Except Err Reg16 :=
  match regOfName c name with
  | some (.reg16 r) => .ok r
  | _ => .error (.unknownRegister name)

/-- The register and the half a byte name names (R15, R16). -/
def lookupByte (c : Config) : ByteName → Except Err (Reg16 × Half)
  | .alias8 name =>
    match regOfName c name with
    | some (.reg8 r) => .ok (r.parent, r.half)
    | _ => .error (.unknownRegister name)
  | .half name h =>
    match regOfName c name with
    | some (.reg16 r) => .ok (r, h)
    | _ => .error (.unknownRegister name)

/-- The flag a name argument names (R16). -/
def lookupFlag (name : Text) : Except Err Flag :=
  match Flag.ofName name with
  | some f => .ok f
  | none => .error (.unknownFlag name)

/-! ### The command table (R120) -/

/-- The commands of R120 with their arguments. -/
inductive Command where
  | regGet (name : Text)
  | regSet (name : Text) (v : Word)
  | regbGet (name : ByteName)
  | regbSet (name : ByteName) (v : Byte)
  | flagGet (name : Text)
  | flagSet (name : Text) (b : Bool)
  | ipGet
  | ipSet (o : Word)
  | pageGet
  | setPage (q : Word)
  | curGet
  | curSet (o : Word)
  | codeStore (bytes : List Byte)
  | decode (a : Addr)
  | disasm (a : Addr) (last : Word)
  | exec (d : Decoded)
  | step
  | peek (a : Addr)
  | poke (a : Addr) (b : Byte)
  | pokeString (a : Addr) (bytes : List Byte)
  | fill (a : Addr) (stop : Word) (pattern : Option Pattern)
  | search (a : Addr) (pattern : Pattern)
  | compare (a : Addr) (stop : Word) (b : Addr)
  | move (a : Addr) (stop : Word) (b : Addr)
  | resolveRange (page : Option Word) (start stop : Nat)
  | diskLoad (file : Option (List Byte))
  | diskSave
  | diskRead (a : Addr) (first count : Nat)
  | diskWrite (a : Addr) (first count : Nat)
  | diskBytes (first last : Nat)
  deriving DecidableEq, Repr

/-- The value of a successful command (R121). -/
inductive Value where
  | unit
  | word (v : Word)
  | byte (v : Byte)
  | bit (b : Bool)
  | bytes (bs : List Byte)
  | offsets (os : List Word)
  | differences (ds : List (Word × Byte × Byte))
  | decoded (i : Instr) (len : Nat) (next : Word)
  | diagnostic (offset : Word) (byte : Byte) (reason : DiagReason)
  | listing (items : List ListItem)
  | range (page : Word) (start stop : Nat)
  deriving DecidableEq, Repr

/-- What a command answers: a value with the state after it, or one error (R121). -/
abbrev Reply := Host.Outcome (Value × State) Err Refusal

/-- A command that only answers a value. -/
def answer {α : Type} (s : State) (x : Except Err α) (f : α → Value) : Reply :=
  match x with
  | .ok v => .next (f v, s)
  | .error e => .fault e

/-- A command that changes the state. -/
def change (x : Except Err State) : Reply :=
  match x with
  | .ok t => .next (.unit, t)
  | .error e => .fault e

/-- The outcome of the executor or of STEP as a command's. -/
def runReply (r : Result) : Reply :=
  match r with
  | .next t => .next (.unit, t)
  | .fault f => .fault (errOfFault f)
  | .refused q => .refused q

/-- DECODE (R90): an instruction, its length and the offset after it, or a diagnostic, which is a value and no error. -/
def decodeCommand (s : State) (a : Addr) : Except Err Value :=
  match locate s a with
  | .error e => .error e
  | .ok (p, o) =>
    match Sys2Proof.decode s.cfg (fetchWindow s p o) with
    | .ok (i, len) => .ok (.decoded i len (o + BitVec.ofNat 16 len))
    | .error reason => .ok (.diagnostic o (byteAt s p o) reason)

/-- One command (R120, R121). -/
def perform (c : Command) (s : State) : Reply :=
  match c with
  | .regGet n => answer s (lookupReg16 s.cfg n) fun r => .word (readReg16 s r)
  | .regSet n v => change ((lookupReg16 s.cfg n).map fun r => writeReg16 s r v)
  | .regbGet n => answer s (lookupByte s.cfg n) fun x => .byte (readHalf s x.1 x.2)
  | .regbSet n v => change ((lookupByte s.cfg n).map fun x => writeHalf s x.1 x.2 v)
  | .flagGet n => answer s (lookupFlag n) fun f => .bit (readFlag s f)
  | .flagSet n b => change ((lookupFlag n).map fun f => writeFlag s f b)
  | .ipGet => .next (.word s.ip, s)
  | .ipSet o => .next (.unit, { s with ip := o })
  | .pageGet => .next (.word s.ap, s)
  | .setPage q => change (setPage s q)
  | .curGet => .next (.word s.cur, s)
  | .curSet o => .next (.unit, { s with cur := o })
  | .codeStore bytes => change (codeStore s bytes)
  | .decode a => answer s (decodeCommand s a) id
  | .disasm a last => answer s (locate s a) fun x => .listing (disasm s.cfg s.mem x.1 x.2 last)
  | .exec d =>
    match admission s.cfg d with
    | .error e => .fault e
    | .ok i => runReply (exec i s)
  | .step => runReply (step s)
  | .peek a => answer s (peek s a) .byte
  | .poke a b => change (poke s a b)
  | .pokeString a bytes => change (pokeString s a bytes)
  | .fill a stop pattern => change (fillRange s a stop pattern)
  | .search a pattern => answer s (searchPage s a pattern) .offsets
  | .compare a stop b => answer s (compareRanges s a stop b) .differences
  | .move a stop b => change (moveRange s a stop b)
  | .resolveRange page start stop => answer s (resolveRange s page start stop) fun x => .range x.1 x.2.1 x.2.2
  | .diskLoad file => .next (.unit, diskLoad s file)
  | .diskSave => .next (.unit, diskSave s)
  | .diskRead a first count => change (diskRead s a first count)
  | .diskWrite a first count => change (diskWrite s a first count)
  | .diskBytes first last => answer s (diskBytes s first last) .bytes

/-- The host's text path (R123): assemble a line, decode its bytes, EXEC the instruction. -/
def execLine (line : Text) (s : State) : Reply :=
  match assemble s.cfg line with
  | .error e => .fault e
  | .ok bytes =>
    match Sys2Proof.decode s.cfg bytes with
    | .ok (i, _) => perform (.exec (decodedOf i)) s
    | .error reason => .fault (.disassembleDiagnostic 0 (bytes.headD 0) reason)

/-- One line of interactive assembly (R223): assemble it and store the bytes; a line the assembler rejects stores nothing. -/
def assembleLine (line : Text) (s : State) : Reply :=
  match assemble s.cfg line with
  | .error e => .fault e
  | .ok bytes => perform (.codeStore bytes) s

/-- The state of the session after a command: after an error it is the state before (R255, R257). -/
def stateAfter (c : Command) (s : State) : State :=
  match perform c s with
  | .next (_, t) => t
  | .fault _ => s
  | .refused _ => s

/-- The events of a command's outcome: those it added to the session's (R121). -/
def eventsOf (c : Command) (s : State) : List Event := (stateAfter c s).events.drop s.events.length

/-- The state after a sequence of commands (R291). -/
def session (s : State) (cs : List Command) : State := cs.foldl (fun t c => stateAfter c t) s

end Sys2Proof.Machine
end

