-- ==== Sys2Proof/Safety.lean ====
section
/-! DEFINITION. What a good state is (R30 and the canonical forms), and how a run of STEPs ends (R125). -/

namespace Sys2Proof.Machine

/-- The invariant of the engine (R30): a legal configuration, an active page that exists, and memory and disk in canonical
form with no byte outside their sizes. -/
abbrev State.Inv (s : State) : Prop :=
  s.cfg.wf ∧ s.ap.toNat < s.cfg.nPages ∧
  s.mem.wf ∧ s.mem.below s.cfg.memSize ∧ s.disk.wf ∧ s.disk.below s.cfg.diskSize

/-- How a run has ended within its fuel (R125). -/
inductive RunEnd where
  | terminated (s : State)
  | faulted (f : Fault) (s : State)
  | refused (r : Refusal) (s : State)
  | outOfFuel (s : State)
  deriving DecidableEq, Repr

/-- The events a step added. -/
def newEvents (s t : State) : List Event := t.events.drop s.events.length

/-- A run: STEPs until one has a TerminateRequest among its events or ends in an error (R125). The state of a fault is the
state before the failed step (R255). -/
def runSteps : Nat → State → RunEnd
  | 0, s => .outOfFuel s
  | k + 1, s =>
    match step s with
    | .next t => if (newEvents s t).contains .terminateRequest then .terminated t else runSteps k t
    | .fault f => .faulted f s
    | .refused r => .refused r s

end Sys2Proof.Machine
end

