-- ==== Sys2Proof/Certificates/Slice0/Obligations.lean ====
section
/-! DEFINITION. The statements for the provers. The first part writes the spec's formulas a second time, in other words than
the model's, and groups the eight and the two forms of an instruction, so that one statement holds each rule whole. -/

namespace Sys2Proof.Spec

open Sys2Proof.Machine

/-! ### The ALU, written apart from the model -/

/-- An even number of 1 bits in a byte. -/
def evenOnes (b : Byte) : Bool :=
  !(b.getLsbD 0 ^^ b.getLsbD 1 ^^ b.getLsbD 2 ^^ b.getLsbD 3 ^^ b.getLsbD 4 ^^ b.getLsbD 5 ^^ b.getLsbD 6 ^^ b.getLsbD 7)

/-- The top bit, by magnitude. -/
def topBit {w : Nat} (r : BitVec w) : Bool := decide (2 ^ (w - 1) ≤ r.toNat)

/-- A true signed value outside `[-2^(w-1), 2^(w-1) - 1]` (R131). -/
def outsideSigned (w : Nat) (v : Int) : Bool := decide (v < -(2 ^ (w - 1)) ∨ 2 ^ (w - 1) ≤ v)

/-- ZF, SF and PF of a result (R130), over the other three flags. -/
def withResult {w : Nat} (f : Flags) (r : BitVec w) : Flags :=
  { f with zf := decide (r = BitVec.ofNat w 0), sf := topBit r, pf := evenOnes (r.setWidth 8) }

/-- `add` (R160, R131). -/
def addOut {w : Nat} (a b : BitVec w) (f : Flags) : BitVec w × Flags :=
  (a + b, withResult { f with cf := decide (2 ^ w ≤ a.toNat + b.toNat), of := outsideSigned w (a.toInt + b.toInt),
                              af := (a ^^^ b ^^^ (a + b)).getLsbD 4 } (a + b))

/-- `sub` (R161, R132). -/
def subOut {w : Nat} (a b : BitVec w) (f : Flags) : BitVec w × Flags :=
  (a - b, withResult { f with cf := decide (a.toNat < b.toNat), of := outsideSigned w (a.toInt - b.toInt),
                              af := (a ^^^ b ^^^ (a - b)).getLsbD 4 } (a - b))

/-- `neg` (R162), with the flags R162 states for it. -/
def negOut {w : Nat} (a : BitVec w) (f : Flags) : BitVec w × Flags :=
  (-a, withResult { f with cf := decide (a ≠ BitVec.ofNat w 0), af := decide (a.toNat % 16 ≠ 0),
                           of := decide (a.toNat = 2 ^ (w - 1)) } (-a))

/-- `inc` (R163): as `add`, CF kept. -/
def incOut {w : Nat} (a : BitVec w) (f : Flags) : BitVec w × Flags :=
  ((addOut a (BitVec.ofNat w 1) f).1, { (addOut a (BitVec.ofNat w 1) f).2 with cf := f.cf })

/-- `dec` (R164): as `sub`, CF kept. -/
def decOut {w : Nat} (a : BitVec w) (f : Flags) : BitVec w × Flags :=
  ((subOut a (BitVec.ofNat w 1) f).1, { (subOut a (BitVec.ofNat w 1) f).2 with cf := f.cf })

/-- A logical result: CF and OF cleared, AF kept (R133). -/
def logicOut {w : Nat} (r : BitVec w) (f : Flags) : BitVec w × Flags :=
  (r, withResult { f with cf := false, of := false } r)

/-- `and` (R170), bit by bit. -/
def andOut {w : Nat} (a b : BitVec w) (f : Flags) : BitVec w × Flags :=
  logicOut (BitVec.ofFnLE fun i => a.getLsbD i && b.getLsbD i) f

/-- `or` (R171), bit by bit. -/
def orOut {w : Nat} (a b : BitVec w) (f : Flags) : BitVec w × Flags :=
  logicOut (BitVec.ofFnLE fun i => a.getLsbD i || b.getLsbD i) f

/-- `xor` (R172), bit by bit. -/
def xorOut {w : Nat} (a b : BitVec w) (f : Flags) : BitVec w × Flags :=
  logicOut (BitVec.ofFnLE fun i => a.getLsbD i ^^ b.getLsbD i) f

/-- `not` (R173), bit by bit, no flag. -/
def notOut {w : Nat} (a : BitVec w) (f : Flags) : BitVec w × Flags := (BitVec.ofFnLE fun i => !a.getLsbD i, f)

/-- A shift or rotate of `a` to `r` moving bit `c` out (R134). -/
def shifted {w : Nat} (a r : BitVec w) (c : Bool) (f : Flags) : BitVec w × Flags :=
  (r, withResult { f with cf := c, of := topBit a ^^ topBit r } r)

/-- `shl` (R180). -/
def shlOut {w : Nat} (a : BitVec w) (f : Flags) : BitVec w × Flags := shifted a (a <<< 1) (topBit a) f

/-- `shr` (R181). -/
def shrOut {w : Nat} (a : BitVec w) (f : Flags) : BitVec w × Flags := shifted a (a >>> 1) (decide (a.toNat % 2 = 1)) f

/-- `rol` (R182). -/
def rolOut {w : Nat} (a : BitVec w) (f : Flags) : BitVec w × Flags := shifted a (a.rotateLeft 1) (topBit a) f

/-- `ror` (R183). -/
def rorOut {w : Nat} (a : BitVec w) (f : Flags) : BitVec w × Flags :=
  shifted a (a.rotateRight 1) (decide (a.toNat % 2 = 1)) f

/-! ### The tables of R12 and R80 -/

/-- The session runs with the spec's tables (R12, R81 to R84). -/
abbrev SpecTables (c : Config) : Prop := c.regTable = specRegTable ∧ c.opTable = specOpTable

/-- The index of a 16-bit register (R12). -/
def index16 : Reg16 → Byte
  | .ax => 0x00 | .bx => 0x01 | .cx => 0x02 | .dx => 0x03
  | .sp => 0x04 | .bp => 0x05 | .si => 0x06 | .di => 0x07

/-- The index of an alias (R12). -/
def index8 : Reg8 → Byte
  | .al => 0x08 | .ah => 0x09 | .bl => 0x0A | .bh => 0x0B
  | .cl => 0x0C | .ch => 0x0D | .dl => 0x0E | .dh => 0x0F

/-- The rows of REGTABLE for the registers: index, register, name (R12). -/
def registerRows : List (Byte × Reg16 × Text) :=
  [(0x00, .ax, ['A', 'X']), (0x01, .bx, ['B', 'X']), (0x02, .cx, ['C', 'X']), (0x03, .dx, ['D', 'X']),
   (0x04, .sp, ['S', 'P']), (0x05, .bp, ['B', 'P']), (0x06, .si, ['S', 'I']), (0x07, .di, ['D', 'I'])]

/-- The rows of REGTABLE for the aliases: index, alias, name, the register and which of its bytes (R12). -/
def aliasRows : List (Byte × Reg8 × Text × Reg16 × Half) :=
  [(0x08, .al, ['A', 'L'], .ax, .lo), (0x09, .ah, ['A', 'H'], .ax, .hi),
   (0x0A, .bl, ['B', 'L'], .bx, .lo), (0x0B, .bh, ['B', 'H'], .bx, .hi),
   (0x0C, .cl, ['C', 'L'], .cx, .lo), (0x0D, .ch, ['C', 'H'], .cx, .hi),
   (0x0E, .dl, ['D', 'L'], .dx, .lo), (0x0F, .dh, ['D', 'H'], .dx, .hi)]

/-- A byte that names no register of the field's width (R74). -/
def BadRegister (c : Config) (sh : Shape) (b : Byte) : Prop :=
  (sh = .reg8 ∧ ∀ r, regOfIndex c b ≠ some (.reg8 r)) ∨ (sh = .reg16 ∧ ∀ r, regOfIndex c b ≠ some (.reg16 r))

/-! ### Where a result goes -/

/-- The 16-bit value of a page's cells at `m` and `m + 1`, the low byte first (R46). -/
def word16 (s : State) (p m : Word) : Word := wordOf (readPhys s.mem (phys p m)) (readPhys s.mem (phys p m + 1))

/-- Memory with a 16-bit value stored at (p, m), the low byte first (R47). -/
def store16 (s : State) (p m v : Word) : Memory :=
  writePhys (writePhys s.mem (phys p m) (lowByte v)) (phys p m + 1) (highByte v)

/-- A result and its flags into an alias. -/
def putReg8 (s : State) (d : Reg8) (x : Byte × Flags) : State := { writeReg8 s d x.1 with flags := x.2 }

/-- A result and its flags into a register. -/
def putReg16 (s : State) (d : Reg16) (x : Word × Flags) : State := { writeReg16 s d x.1 with flags := x.2 }

/-- A result and its flags into a cell of page `p`. -/
def putMem8 (s : State) (p m : Word) (x : Byte × Flags) : State :=
  { s with mem := writePhys s.mem (phys p m) x.1, flags := x.2 }

/-- A result and its flags into two cells of page `p`. -/
def putMem16 (s : State) (p m : Word) (x : Word × Flags) : State :=
  { s with mem := store16 s p m x.1, flags := x.2 }

/-- The page exists (R42). -/
abbrev PageExists (s : State) (p : Word) : Prop := p.toNat < s.cfg.nPages

/-- An address argument names (p, o): as the pair, or as the offset alone where p is the active page (R41, R210). -/
def Names (s : State) (a : Addr) (p o : Word) : Prop := a = .full p o ∨ (a = .offset o ∧ p = s.ap)

/-! ### The forms of an instruction -/

/-- The eight forms of a two-operand instruction, in the table's order (R81). -/
structure TwoForms where
  mem8Reg8 : Word → Reg8 → Instr
  mem16Reg16 : Word → Reg16 → Instr
  reg8Mem8 : Reg8 → Word → Instr
  reg16Mem16 : Reg16 → Word → Instr
  reg8Reg8 : Reg8 → Reg8 → Instr
  reg16Reg16 : Reg16 → Reg16 → Instr
  reg8Imm8 : Reg8 → Byte → Instr
  reg16Imm16 : Reg16 → Word → Instr

/-- The eight forms of `mov` (R150). -/
def movForms : TwoForms :=
  ⟨.movMem8Reg8, .movMem16Reg16, .movReg8Mem8, .movReg16Mem16, .movReg8Reg8, .movReg16Reg16, .movReg8Imm8, .movReg16Imm16⟩

/-- The eight forms of `add` (R160). -/
def addForms : TwoForms :=
  ⟨.addMem8Reg8, .addMem16Reg16, .addReg8Mem8, .addReg16Mem16, .addReg8Reg8, .addReg16Reg16, .addReg8Imm8, .addReg16Imm16⟩

/-- The eight forms of `sub` (R161). -/
def subForms : TwoForms :=
  ⟨.subMem8Reg8, .subMem16Reg16, .subReg8Mem8, .subReg16Mem16, .subReg8Reg8, .subReg16Reg16, .subReg8Imm8, .subReg16Imm16⟩

/-- The eight forms of `and` (R170). -/
def andForms : TwoForms :=
  ⟨.andMem8Reg8, .andMem16Reg16, .andReg8Mem8, .andReg16Mem16, .andReg8Reg8, .andReg16Reg16, .andReg8Imm8, .andReg16Imm16⟩

/-- The eight forms of `or` (R171). -/
def orForms : TwoForms :=
  ⟨.orMem8Reg8, .orMem16Reg16, .orReg8Mem8, .orReg16Mem16, .orReg8Reg8, .orReg16Reg16, .orReg8Imm8, .orReg16Imm16⟩

/-- The eight forms of `xor` (R172). -/
def xorForms : TwoForms :=
  ⟨.xorMem8Reg8, .xorMem16Reg16, .xorReg8Mem8, .xorReg16Mem16, .xorReg8Reg8, .xorReg16Reg16, .xorReg8Imm8, .xorReg16Imm16⟩

/-- The bytes of the eight forms with the spec's tables, opcode `base + k` (R75, R81). -/
def TwoEncoding (base : Nat) (F : TwoForms) : Prop :=
  ∀ c : Config, SpecTables c →
    (∀ m r, encode c (F.mem8Reg8 m r) = [BitVec.ofNat 8 base, lowByte m, highByte m, index8 r]) ∧
    (∀ m r, encode c (F.mem16Reg16 m r) = [BitVec.ofNat 8 (base + 1), lowByte m, highByte m, index16 r]) ∧
    (∀ d m, encode c (F.reg8Mem8 d m) = [BitVec.ofNat 8 (base + 2), index8 d, lowByte m, highByte m]) ∧
    (∀ d m, encode c (F.reg16Mem16 d m) = [BitVec.ofNat 8 (base + 3), index16 d, lowByte m, highByte m]) ∧
    (∀ d r, encode c (F.reg8Reg8 d r) = [BitVec.ofNat 8 (base + 4), index8 d, index8 r]) ∧
    (∀ d r, encode c (F.reg16Reg16 d r) = [BitVec.ofNat 8 (base + 5), index16 d, index16 r]) ∧
    (∀ d v, encode c (F.reg8Imm8 d v) = [BitVec.ofNat 8 (base + 6), index8 d, v]) ∧
    (∀ d v, encode c (F.reg16Imm16 d v) = [BitVec.ofNat 8 (base + 7), index16 d, lowByte v, highByte v])

/-- The four memory forms complete on the cells of page `p`, the 16-bit ones not at offset 0xFFFF. `f8` and `f16` give the
result and the flags from destination, source, flags. -/
def TwoMemoryForms (F : TwoForms) (f8 : Byte → Byte → Flags → Byte × Flags) (f16 : Word → Word → Flags → Word × Flags)
    (s : State) (p : Word) : Prop :=
  (∀ m r, exec (F.mem8Reg8 m r) s =
    .next (putMem8 s p m (f8 (readPhys s.mem (phys p m)) (readReg8 s r) s.flags))) ∧
  (∀ d m, exec (F.reg8Mem8 d m) s =
    .next (putReg8 s d (f8 (readReg8 s d) (readPhys s.mem (phys p m)) s.flags))) ∧
  (∀ m r, m ≠ 0xFFFF → exec (F.mem16Reg16 m r) s =
    .next (putMem16 s p m (f16 (word16 s p m) (readReg16 s r) s.flags))) ∧
  (∀ d m, m ≠ 0xFFFF → exec (F.reg16Mem16 d m) s =
    .next (putReg16 s d (f16 (readReg16 s d) (word16 s p m) s.flags)))

/-- The eight forms complete: the register and immediate forms in every state, the memory forms where the active page
exists. -/
def TwoCompletes (F : TwoForms) (f8 : Byte → Byte → Flags → Byte × Flags) (f16 : Word → Word → Flags → Word × Flags) :
    Prop :=
  ∀ s : State,
    (∀ d r, exec (F.reg8Reg8 d r) s = .next (putReg8 s d (f8 (readReg8 s d) (readReg8 s r) s.flags))) ∧
    (∀ d r, exec (F.reg16Reg16 d r) s = .next (putReg16 s d (f16 (readReg16 s d) (readReg16 s r) s.flags))) ∧
    (∀ d v, exec (F.reg8Imm8 d v) s = .next (putReg8 s d (f8 (readReg8 s d) v s.flags))) ∧
    (∀ d v, exec (F.reg16Imm16 d v) s = .next (putReg16 s d (f16 (readReg16 s d) v s.flags))) ∧
    (PageExists s s.ap → TwoMemoryForms F f8 f16 s s.ap)

/-- Where the forms fault: a 16-bit memory operand at offset 0xFFFF (R48). -/
def TwoFaults (F : TwoForms) : Prop :=
  ∀ s : State,
    (∀ r, exec (F.mem16Reg16 0xFFFF r) s = .fault .addressOutOfRange) ∧
    (∀ d, exec (F.reg16Mem16 d 0xFFFF) s = .fault .addressOutOfRange)

/-- EXEC refuses every other shape tuple of the mnemonic (R123). -/
def OnlyShapes (m : Mnemonic) (sigs : List (List Shape)) : Prop :=
  ∀ (c : Config) (ops : List Operand), SpecTables c → ops.map Operand.shape ∉ sigs →
    admission c { mnemonic := m.name, operands := ops } =
      .error (.operandTypeMismatch { mnemonic := m.name, operands := ops })

/-- The eight signatures (R81). -/
def eight : List (List Shape) :=
  [[.mem8, .reg8], [.mem16, .reg16], [.reg8, .mem8], [.reg16, .mem16],
   [.reg8, .reg8], [.reg16, .reg16], [.reg8, .imm8], [.reg16, .imm16]]

/-- The rule of a two-operand instruction: encoding, completion, faults, admission. -/
def TwoOperandRule (m : Mnemonic) (base : Nat) (F : TwoForms) (f8 : Byte → Byte → Flags → Byte × Flags)
    (f16 : Word → Word → Flags → Word × Flags) : Prop :=
  TwoEncoding base F ∧ TwoCompletes F f8 f16 ∧ TwoFaults F ∧ OnlyShapes m eight

/-- The rule of a one-operand ALU instruction: encoding, completion in every state, admission. -/
def OneOperandRule (m : Mnemonic) (op8 op16 : Byte) (reg8 : Reg8 → Instr) (reg16 : Reg16 → Instr)
    (f8 : Byte → Flags → Byte × Flags) (f16 : Word → Flags → Word × Flags) : Prop :=
  (∀ (c : Config) (d : Reg8), SpecTables c → encode c (reg8 d) = [op8, index8 d]) ∧
  (∀ (c : Config) (d : Reg16), SpecTables c → encode c (reg16 d) = [op16, index16 d]) ∧
  (∀ s d, exec (reg8 d) s = .next (putReg8 s d (f8 (readReg8 s d) s.flags))) ∧
  (∀ s d, exec (reg16 d) s = .next (putReg16 s d (f16 (readReg16 s d) s.flags))) ∧
  OnlyShapes m [[.reg8], [.reg16]]

/-! ### Frames -/

/-- The registers an instruction may write: its register destination, whole for an alias, and SP for push and pop (R14,
R190, R191). -/
def writtenRegs (i : Instr) : List Reg16 :=
  match i.mnemonic, i.operands with
  | .push, _ => [.sp]
  | .pop, [.reg16 d] => [d, .sp]
  | .int, _ => []
  | _, .reg16 d :: _ => [d]
  | _, .reg8 d :: _ => [d.parent]
  | _, _ => []

/-- The alias destination of an instruction, if it has one. -/
def aliasDest (i : Instr) : Option Reg8 :=
  match i.operands with
  | .reg8 d :: _ => some d
  | _ => none

/-- The flags an instruction writes, the table of R18. -/
def flagsWritten (m : Mnemonic) : List Flag :=
  match m with
  | .mov | .not | .push | .pop | .int => []
  | .add | .sub | .neg => [.of, .sf, .zf, .af, .pf, .cf]
  | .inc | .dec => [.of, .sf, .zf, .af, .pf]
  | .and | .or | .xor | .shl | .shr | .rol | .ror => [.of, .sf, .zf, .pf, .cf]

/-- The physical index an instruction stores to, and how many bytes: a memory destination at (AP, m), the stack slot at
(AP, SP - 2), the read-line service's buffer; `none` for a form that stores nothing. -/
def storedTo (i : Instr) (s : State) : Option (Nat × Nat) :=
  match i.mnemonic, i.operands with
  | .push, _ => some (phys s.ap (readReg16 s .sp - 2), 2)
  | .int, [.imm8 n] =>
    if n = s.cfg.services.printNo then none
    else if n = s.cfg.services.readLineNo then
      some (phys (servicePage s) (serviceOffset s), (drawLine s).1.length + 1)
    else none
  | _, .mem8 m :: _ => some (phys s.ap m, 1)
  | _, .mem16 m :: _ => some (phys s.ap m, 2)
  | _, _ => none

/-- The session runs with the spec's service values (R4, R195, R196, R197). -/
abbrev SpecServices (s : State) : Prop := s.cfg.services = specServices

/-- The byte at offset `o + k` of the print service's page. -/
abbrev stringByte (s : State) (k : Nat) : Byte := readPhys s.mem (phys (readReg16 s .bx) (readReg16 s .dx) + k)

/-- The table of R252: which instruction ends with which error in which state. -/
def Faults (i : Instr) (s : State) (f : Fault) : Prop :=
  match i with
  | .pushReg16 _ => f = .addressOutOfRange ∧ (readReg16 s .sp).toNat < 2
  | .popReg16 _ => f = .addressOutOfRange ∧ readReg16 s .sp = 0xFFFF
  | .intImm8 n =>
    if n = 0x09 then
      f = .addressOutOfRange ∧
        (s.cfg.nPages ≤ (readReg16 s .bx).toNat ∨
          ∀ k, (readReg16 s .dx).toNat + k ≤ 0xFFFF → stringByte s k ≠ 0x24)
    else if n = 0x0A then
      f = .addressOutOfRange ∧
        (s.cfg.nPages ≤ (readReg16 s .bx).toNat ∨ 0xFFFF < (readReg16 s .dx).toNat + (drawLine s).1.length)
    else if n = 0x20 then False
    else f = .unsupportedService n
  | i => f = .addressOutOfRange ∧ Operand.mem16 0xFFFF ∈ i.operands

end Sys2Proof.Spec

section
open Sys2Proof Sys2Proof.Machine Sys2Proof.Spec

/-- Decoding an encoded instruction gives it back, whatever bytes follow (30_encoding.md R104 (derived), R73, R90, R101). -/
def Obligations.DecodeEncodeRoundTrip : Prop :=
  ∀ c : Config, c.tablesWf → ∀ (i : Instr) (rest : List Byte),
    decode c (encode c i ++ rest) = .ok (i, (encode c i).length)

/-- Bytes that decode are exactly the encoding of what they decode to (30_encoding.md R70, R73, R80 (derived: no two entries share an opcode byte), R104). -/
def Obligations.DecodedBytesAreTheEncoding : Prop :=
  ∀ c : Config, c.tablesWf → ∀ (bs : List Byte) (i : Instr) (n : Nat), decode c bs = .ok (i, n) →
    n ≤ bs.length ∧ (n = 2 ∨ n = 3 ∨ n = 4) ∧ bs.take n = encode c i

/-- The worked encodings of 30_encoding.md decode to their instructions (30_encoding.md section 7 "Worked encodings"). -/
def Obligations.WorkedEncodingsDecode : Prop :=
  ∀ c : Config, SpecTables c →
    decode c [0x17, 0x00, 0x34, 0x12] = .ok (.movReg16Imm16 .ax 0x1234, 4) ∧
    decode c [0x16, 0x08, 0x7F] = .ok (.movReg8Imm8 .al 0x7F, 3) ∧
    decode c [0x11, 0x00, 0x03, 0x00] = .ok (.movMem16Reg16 0x0300 .ax, 4) ∧
    decode c [0x12, 0x0C, 0x00, 0x03] = .ok (.movReg8Mem8 .cl 0x0300, 4) ∧
    decode c [0x25, 0x01, 0x02] = .ok (.addReg16Reg16 .bx .cx, 3) ∧
    decode c [0x64, 0x08, 0x08] = .ok (.xorReg8Reg8 .al .al, 3) ∧
    decode c [0x78, 0x08] = .ok (.shlReg8 .al, 2) ∧
    decode c [0x80, 0x00] = .ok (.pushReg16 .ax, 2) ∧
    decode c [0x90, 0x20] = .ok (.intImm8 0x20, 2)

/-- The 189 unassigned opcode bytes do not decode, and the 67 assigned ones are not unknown (30_encoding.md R85 (derived), R86, R90). -/
def Obligations.UnassignedOpcodesAreRejected : Prop :=
  ∀ (c : Config) (b : Byte) (rest : List Byte), SpecTables c →
    (decode c (b :: rest) = .error .unknownOpcode ↔
      ¬ ((0x10 ≤ b.toNat ∧ b.toNat ≤ 0x17) ∨ (0x20 ≤ b.toNat ∧ b.toNat ≤ 0x27) ∨
         (0x30 ≤ b.toNat ∧ b.toNat ≤ 0x37) ∨ (0x40 ≤ b.toNat ∧ b.toNat ≤ 0x47) ∨
         (0x50 ≤ b.toNat ∧ b.toNat ≤ 0x57) ∨ (0x60 ≤ b.toNat ∧ b.toNat ≤ 0x67) ∨
         (0x70 ≤ b.toNat ∧ b.toNat ≤ 0x7F) ∨ b.toNat = 0x80 ∨ b.toNat = 0x81 ∨ b.toNat = 0x90))

/-- DECODE: the instruction that stands at the address, or one of the three diagnostics with the leading byte; STEP and the listing report the same (R90, R91). -/
def Obligations.DecodeAnswersInstructionOrDiagnostic : Prop :=
  (∀ (s : State) (a : Addr) (p o : Word), s.cfg.tablesWf → Names s a p o →
    (¬ PageExists s p → perform (.decode a) s = .fault .outOfRange) ∧
    (PageExists s p →
      (∀ i : Instr, o.toNat + (encode s.cfg i).length - 1 ≤ 0xFFFF →
        readBytes s.mem (phys p o) (encode s.cfg i).length = encode s.cfg i →
        perform (.decode a) s = .next (.decoded i (encode s.cfg i).length
          (BitVec.ofNat 16 ((o.toNat + (encode s.cfg i).length) % 65536)), s)) ∧
      (entryOfOpcode s.cfg (byteAt s p o) = none →
        perform (.decode a) s = .next (.diagnostic o (byteAt s p o) .unknownOpcode, s)) ∧
      (∀ e : Entry, entryOfOpcode s.cfg (byteAt s p o) = some e → 0xFFFF < o.toNat + entryLength e - 1 →
        perform (.decode a) s = .next (.diagnostic o (byteAt s p o) .truncated, s)) ∧
      (∀ (e : Entry) (pre post : List Shape) (sh : Shape), entryOfOpcode s.cfg (byteAt s p o) = some e →
        o.toNat + entryLength e - 1 ≤ 0xFFFF → e.signature = pre ++ sh :: post →
        BadRegister s.cfg sh (readPhys s.mem (phys p o + 1 + (pre.map Shape.bytes).sum)) →
        perform (.decode a) s = .next (.diagnostic o (byteAt s p o) .badRegisterIndex, s)))) ∧
  (∀ c : Config, c.tablesWf → ∀ (i : Instr) (k : Nat), 0 < k → k < (encode c i).length →
    decode c ((encode c i).take k) = .error .truncated) ∧
  (∀ (s : State) (reason : DiagReason), PageExists s s.ap →
    perform (.decode (.offset s.ip)) s = .next (.diagnostic s.ip (byteAt s s.ap s.ip) reason, s) →
    step s = .fault (.disassembleDiagnostic s.ip (byteAt s s.ap s.ip) reason)) ∧
  (∀ (c : Config) (m : Memory) (p last : Word) (k o : Nat) (reason : DiagReason), o ≤ last.toNat →
    decode c (readBytes m (p.toNat * 65536 + o) (min 4 (last.toNat + 1 - o))) = .error reason →
    disasmFrom c m p last.toNat (k + 1) o =
      .diagnostic (BitVec.ofNat 16 o) (readPhys m (p.toNat * 65536 + o)) reason (o + 1) ::
        disasmFrom c m p last.toNat k (o + 1))

/-- REGTABLE row by row (index, register, name in any case), and a register field with any other byte is BadRegisterIndex (R12, R74). -/
def Obligations.RegisterFieldsAreThoseOfTheTable : Prop :=
  (∀ c : Config, SpecTables c →
    (∀ x ∈ registerRows, regOfIndex c x.1 = some (.reg16 x.2.1) ∧ indexOf c (.reg16 x.2.1) = x.1 ∧
      ∀ t : Text, regOfName c t = some (.reg16 x.2.1) ↔ upperText t = x.2.2) ∧
    (∀ x ∈ aliasRows, regOfIndex c x.1 = some (.reg8 x.2.1) ∧ indexOf c (.reg8 x.2.1) = x.1 ∧
      (∀ t : Text, regOfName c t = some (.reg8 x.2.1) ↔ upperText t = x.2.2.1) ∧
      ∀ s : State, readReg8 s x.2.1 = readHalf s x.2.2.2.1 x.2.2.2.2) ∧
    (∀ b : Byte, 0x10 ≤ b.toNat → regOfIndex c b = none) ∧
    (∀ t : Text, (∀ x ∈ registerRows, upperText t ≠ x.2.2) → (∀ x ∈ aliasRows, upperText t ≠ x.2.2.1) →
      regOfName c t = none)) ∧
  (∀ (c : Config) (e : Entry) (pre post : List Shape) (sh : Shape) (rest : List Byte) (b : Byte), c.tablesWf →
    e ∈ c.opTable → e.signature = pre ++ sh :: post → rest[(pre.map Shape.bytes).sum]? = some b →
    entryLength e ≤ rest.length + 1 → BadRegister c sh b →
    decode c (e.opcode :: rest) = .error .badRegisterIndex)

/-- EXEC admits every instruction of the table, and only a known mnemonic with a shape tuple of its entries (40_execution.md R123; log entry 8 (a known mnemonic is recognised in any case, the model's choice)). -/
def Obligations.ExecAdmitsExactlyTheTableKeys : Prop :=
  (∀ (i : Instr) (s : State), s.cfg.tablesWf → perform (.exec (decodedOf i)) s = runReply (exec i s)) ∧
  (∀ (i : Instr) (s t : State), exec i s = .next t → t.ip = s.ip) ∧
  (∀ (d : Decoded) (s : State), Mnemonic.ofName d.mnemonic = none →
    perform (.exec d) s = .fault (.unsupportedMnemonic d.mnemonic)) ∧
  (∀ (d : Decoded) (m : Mnemonic) (s : State), s.cfg.tablesWf → Mnemonic.ofName d.mnemonic = some m →
    (d.operands.map Operand.shape ∈ m.signatures →
      ∃ i : Instr, i.mnemonic = m ∧ i.operands = d.operands ∧ perform (.exec d) s = runReply (exec i s)) ∧
    (d.operands.map Operand.shape ∉ m.signatures → perform (.exec d) s = .fault (.operandTypeMismatch d))) ∧
  (∀ (d : Decoded) (m : Mnemonic) (v : Operand) (rest : List Operand) (s : State),
    Mnemonic.ofName d.mnemonic = some m → d.operands = v :: rest → (v.shape = .imm8 ∨ v.shape = .imm16) → m ≠ .int →
    perform (.exec d) s = .fault (.operandTypeMismatch d))

/-- Assembling the disassembler's text of an instruction gives its bytes (30_encoding.md R104 (derived), R96, R98, R99, R100, R101). -/
def Obligations.TextAssemblesToTheEncoding : Prop :=
  ∀ (c : Config) (i : Instr), SpecTables c → assemble c (instrText i) = .ok (encode c i)

/-- A step is exec of the decoded instruction with IP moved past its bytes; a diagnostic or an error of exec ends it (R124). -/
def Obligations.StepRunsTheDecodedInstruction : Prop :=
  ∀ s : State, PageExists s s.ap →
    (∀ (i : Instr) (n : Nat), decode s.cfg (fetchWindow s s.ap s.ip) = .ok (i, n) → i.wellFormed s.cfg = true →
      step s = match exec i s with
        | .next t => .next { t with ip := BitVec.ofNat 16 ((s.ip.toNat + n) % 65536) }
        | .fault f => .fault f
        | .refused r => .refused r) ∧
    (∀ reason, decode s.cfg (fetchWindow s s.ap s.ip) = .error reason →
      step s = .fault (.disassembleDiagnostic s.ip (byteAt s s.ap s.ip) reason)) ∧
    (∀ f, step s = .fault f → stateAfter .step s = s)

/-- IP at the end of the page: an instruction that ends there leaves IP 0, one that would pass it is not fetched (R21). -/
def Obligations.StepsFetchOnlyWithinThePage : Prop :=
  (∀ s t : State, step s = .next t →
    ∃ (i : Instr) (n : Nat), decode s.cfg (fetchWindow s s.ap s.ip) = .ok (i, n) ∧ s.ip.toNat + n ≤ 65536 ∧
      t.ip.toNat = (s.ip.toNat + n) % 65536 ∧ (t.ip = 0 ↔ s.ip.toNat + n - 1 = 0xFFFF) ∧ t.ap = s.ap) ∧
  (∀ (s : State) (e : Entry), PageExists s s.ap → entryOfOpcode s.cfg (byteAt s s.ap s.ip) = some e →
    0xFFFF < s.ip.toNat + entryLength e - 1 →
    step s = .fault (.disassembleDiagnostic s.ip (byteAt s s.ap s.ip) .truncated))

/-- Each instruction ends with an error exactly where the table of R252 says, and with that error; and with no active page a memory access is an error (60_exceptions.md R252 (derived), 20_memory.md R42, R48; log entry 15 (an active page that does not exist)). -/
def Obligations.ExecFaultsExactlyWhereTabulated : Prop :=
  (∀ (s : State) (i : Instr), PageExists s s.ap → SpecServices s → ∀ f, exec i s = .fault f ↔ Faults i s f) ∧
  (∀ (s : State) (i : Instr), ¬ PageExists s s.ap →
    (∃ m, Operand.mem8 m ∈ i.operands ∨ Operand.mem16 m ∈ i.operands) ∨ i.mnemonic = .push ∨ i.mnemonic = .pop →
    exec i s = .fault .addressOutOfRange) ∧
  ∀ (s : State) (i : Instr) (r : Refusal), exec i s ≠ .refused r

/-- From a good state STEP ends with a diagnostic, AddressOutOfRange or UnsupportedService, and with nothing else (60_exceptions.md R250, R252 (derived)). -/
def Obligations.StepFaultsAreTheListedKinds : Prop :=
  ∀ s : State, s.Inv →
    (∀ r, step s ≠ .refused r) ∧
    (∀ f, step s = .fault f →
      (∃ reason, f = .disassembleDiagnostic s.ip (byteAt s s.ap s.ip) reason) ∨ f = .addressOutOfRange ∨
      (∃ n len, decode s.cfg (fetchWindow s s.ap s.ip) = .ok (.intImm8 n, len) ∧ f = .unsupportedService n))

/-- Every step keeps the invariant (10_state.md R30 (derived)). -/
def Obligations.StepKeepsTheInvariant : Prop :=
  ∀ s t : State, s.Inv → step s = .next t → t.Inv

/-- The state at reset meets the invariant, for every legal configuration (10_state.md R30 (derived), 70_reset_and_hazards.md R281, R282, R283). -/
def Obligations.ResetMeetsTheInvariant : Prop :=
  (∀ c : Config, c.wf → (State.resetWith c).Inv) ∧ State.reset.Inv

/-- Every command of the host keeps the invariant, whatever its arguments and whether it succeeds or fails (10_state.md R30 (derived: from every command preserving them)). -/
def Obligations.EveryCommandKeepsTheInvariant : Prop :=
  ∀ (c : Command) (s : State), s.Inv → (stateAfter c s).Inv

/-- Every command with an address: an offset alone means that offset in the active page, as it is when the command starts (R41). -/
def Obligations.OmittedPageIsTheActivePage : Prop :=
  ∀ (s : State) (o stop : Word) (b : Byte) (bytes : List Byte) (pat : Pattern) (fillPat : Option Pattern) (a : Addr)
    (first count : Nat),
    perform (.peek (.offset o)) s = perform (.peek (.full s.ap o)) s ∧
    perform (.poke (.offset o) b) s = perform (.poke (.full s.ap o) b) s ∧
    perform (.pokeString (.offset o) bytes) s = perform (.pokeString (.full s.ap o) bytes) s ∧
    perform (.fill (.offset o) stop fillPat) s = perform (.fill (.full s.ap o) stop fillPat) s ∧
    perform (.search (.offset o) pat) s = perform (.search (.full s.ap o) pat) s ∧
    perform (.compare (.offset o) stop a) s = perform (.compare (.full s.ap o) stop a) s ∧
    perform (.compare a stop (.offset o)) s = perform (.compare a stop (.full s.ap o)) s ∧
    perform (.move (.offset o) stop a) s = perform (.move (.full s.ap o) stop a) s ∧
    perform (.move a stop (.offset o)) s = perform (.move a stop (.full s.ap o)) s ∧
    perform (.resolveRange none first count) s = perform (.resolveRange (some s.ap) first count) s ∧
    perform (.decode (.offset o)) s = perform (.decode (.full s.ap o)) s ∧
    perform (.disasm (.offset o) stop) s = perform (.disasm (.full s.ap o) stop) s ∧
    perform (.diskRead (.offset o) first count) s = perform (.diskRead (.full s.ap o) first count) s ∧
    perform (.diskWrite (.offset o) first count) s = perform (.diskWrite (.full s.ap o) first count) s

/-- mov: all eight forms, encoded, completed, faulting and refused as R150 says (R150). -/
def Obligations.MovCopiesItsSource : Prop :=
  TwoOperandRule .mov 0x10
    movForms
    (fun _ b f => (b, f)) (fun _ b f => (b, f))

/-- add: all eight forms, encoded, completed, faulting and refused as R160 says (R160). -/
def Obligations.AddWritesSumAndSixFlags : Prop :=
  TwoOperandRule .add 0x20
    addForms
    addOut addOut

/-- sub: all eight forms, encoded, completed, faulting and refused as R161 says (R161). -/
def Obligations.SubWritesDifferenceAndSixFlags : Prop :=
  TwoOperandRule .sub 0x30
    subForms
    subOut subOut

/-- and: all eight forms, encoded, completed, faulting and refused as R170 says (R170). -/
def Obligations.AndWritesBitsAndClearsCarry : Prop :=
  TwoOperandRule .and 0x40
    andForms
    andOut andOut

/-- or: all eight forms, encoded, completed, faulting and refused as R171 says (R171). -/
def Obligations.OrWritesBitsAndClearsCarry : Prop :=
  TwoOperandRule .or 0x50
    orForms
    orOut orOut

/-- xor: all eight forms, encoded, completed, faulting and refused as R172 says (R172). -/
def Obligations.XorWritesBitsAndClearsCarry : Prop :=
  TwoOperandRule .xor 0x60
    xorForms
    xorOut xorOut

/-- not: both forms, encoded, completed in every state and refused otherwise as R173 says (R173). -/
def Obligations.NotInvertsAndKeepsFlags : Prop :=
  OneOperandRule .not 0x70 0x71 .notReg8 .notReg16 notOut notOut

/-- neg: both forms, encoded, completed in every state and refused otherwise as R162 says (R162). -/
def Obligations.NegIsZeroMinusOperand : Prop :=
  OneOperandRule .neg 0x72 0x73 .negReg8 .negReg16 negOut negOut

/-- inc: both forms, encoded, completed in every state and refused otherwise as R163 says (R163). -/
def Obligations.IncAddsOneAndKeepsCarry : Prop :=
  OneOperandRule .inc 0x74 0x75 .incReg8 .incReg16 incOut incOut

/-- dec: both forms, encoded, completed in every state and refused otherwise as R164 says (R164). -/
def Obligations.DecSubtractsOneAndKeepsCarry : Prop :=
  OneOperandRule .dec 0x76 0x77 .decReg8 .decReg16 decOut decOut

/-- shl: both forms, encoded, completed in every state and refused otherwise as R180 says (R180). -/
def Obligations.ShlMovesTopBitToCarry : Prop :=
  OneOperandRule .shl 0x78 0x79 .shlReg8 .shlReg16 shlOut shlOut

/-- shr: both forms, encoded, completed in every state and refused otherwise as R181 says (R181). -/
def Obligations.ShrMovesLowBitToCarry : Prop :=
  OneOperandRule .shr 0x7A 0x7B .shrReg8 .shrReg16 shrOut shrOut

/-- rol: both forms, encoded, completed in every state and refused otherwise as R182 says (R182). -/
def Obligations.RolRotatesOperandBitsOnly : Prop :=
  OneOperandRule .rol 0x7C 0x7D .rolReg8 .rolReg16 rolOut rolOut

/-- ror: both forms, encoded, completed in every state and refused otherwise as R183 says (R183). -/
def Obligations.RorRotatesOperandBitsOnly : Prop :=
  OneOperandRule .ror 0x7E 0x7F .rorReg8 .rorReg16 rorOut rorOut

/-- push: the operand's old value below SP, little-endian, SP lowered by 2; refused with SP below 2 (R190). -/
def Obligations.PushStoresBelowStackPointer : Prop :=
  (∀ (c : Config) (r : Reg16), SpecTables c → encode c (.pushReg16 r) = [0x80, index16 r]) ∧
  (∀ (s : State) (r : Reg16), PageExists s s.ap → 2 ≤ (readReg16 s .sp).toNat →
    exec (.pushReg16 r) s =
      .next { s with mem := store16 s s.ap (readReg16 s .sp - 2) (readReg16 s r),
                     regs := { s.regs with sp := s.regs.sp - 2 } }) ∧
  (∀ (s : State) (r : Reg16), (readReg16 s .sp).toNat < 2 → exec (.pushReg16 r) s = .fault .addressOutOfRange) ∧
  OnlyShapes .push [[.reg16]]

/-- pop: the value at SP into the register, SP raised by 2 modulo 65536; refused with SP = 0xFFFF (R191). -/
def Obligations.PopLoadsAtStackPointer : Prop :=
  (∀ (c : Config) (d : Reg16), SpecTables c → encode c (.popReg16 d) = [0x81, index16 d]) ∧
  (∀ (s : State) (d : Reg16), PageExists s s.ap → readReg16 s .sp ≠ 0xFFFF →
    ∃ t, exec (.popReg16 d) s = .next t ∧ readReg16 t d = word16 s s.ap (readReg16 s .sp) ∧
      (d ≠ .sp → (readReg16 t .sp).toNat = ((readReg16 s .sp).toNat + 2) % 65536) ∧
      (∀ q, q ≠ d → q ≠ .sp → readReg16 t q = readReg16 s q) ∧ t = { s with regs := t.regs }) ∧
  (∀ (s : State) (d : Reg16), readReg16 s .sp = 0xFFFF → exec (.popReg16 d) s = .fault .addressOutOfRange) ∧
  OnlyShapes .pop [[.reg16]]

/-- int: encoding, the three services by their numbers, UnsupportedService for the other 253 (R195). -/
def Obligations.IntSelectsServiceByOperand : Prop :=
  (∀ (c : Config) (n : Byte), SpecTables c → encode c (.intImm8 n) = [0x90, n]) ∧
  (∀ s : State, SpecServices s →
    exec (.intImm8 0x09) s = printService s ∧ exec (.intImm8 0x0A) s = readLineService s ∧
    exec (.intImm8 0x20) s = terminateService s ∧
    (∀ n : Byte, n ≠ 0x09 → n ≠ 0x0A → n ≠ 0x20 → exec (.intImm8 n) s = .fault (.unsupportedService n)) ∧
    (∀ (n : Byte) (t : State), exec (.intImm8 n) s = .next t →
      t.regs = s.regs ∧ t.flags = s.flags ∧ (n ≠ 0x0A → t.mem = s.mem))) ∧
  OnlyShapes .int [[.imm8]]

/-- int 0x09: the bytes at (BX, DX) up to the first terminator are output; no state changes; else AddressOutOfRange (R197). -/
def Obligations.PrintEmitsStringUpToTerminator : Prop :=
  ∀ s : State, SpecServices s →
    (∀ k, PageExists s (readReg16 s .bx) → (readReg16 s .dx).toNat + k ≤ 0xFFFF → stringByte s k = 0x24 →
      (∀ j, j < k → stringByte s j ≠ 0x24) →
      exec (.intImm8 0x09) s = .next { s with events := s.events ++ [.output ((List.range k).map (stringByte s))] }) ∧
    (¬ PageExists s (readReg16 s .bx) → exec (.intImm8 0x09) s = .fault .addressOutOfRange) ∧
    ((∀ k, (readReg16 s .dx).toNat + k ≤ 0xFFFF → stringByte s k ≠ 0x24) →
      exec (.intImm8 0x09) s = .fault .addressOutOfRange)

/-- int 0x0A: for every line of the host, the line and the terminator are stored at (BX, DX), or AddressOutOfRange (46_int.md R198; log entry 3 (the line drawn is the head of hostLines, else a free value with draws raised by one: the model's choice)). -/
def Obligations.ReadLineStoresLineAndTerminator : Prop :=
  ∀ s : State, SpecServices s →
    (PageExists s (readReg16 s .bx) →
      ∃ (line : List Byte) (u : State), drawLine s = (line, u) ∧
        (∀ l rest, s.hostLines = l :: rest → line = l ∧ u = { s with hostLines := rest }) ∧
        (s.hostLines = [] → u = { s with draws := s.draws + 1 }) ∧
        ((readReg16 s .dx).toNat + line.length ≤ 0xFFFF →
          ∃ t, exec (.intImm8 0x0A) s = .next t ∧
            t = { u with mem := t.mem, events := s.events ++ [.inputTaken line] } ∧
            (∀ i, i < line.length → (line)[i]? = some (readPhys t.mem (phys (readReg16 s .bx) (readReg16 s .dx) + i))) ∧
            readPhys t.mem (phys (readReg16 s .bx) (readReg16 s .dx) + line.length) = 0x24 ∧
            (∀ a, a < phys (readReg16 s .bx) (readReg16 s .dx) ∨
                phys (readReg16 s .bx) (readReg16 s .dx) + line.length < a → readPhys t.mem a = readPhys s.mem a)) ∧
        (0xFFFF < (readReg16 s .dx).toNat + line.length → exec (.intImm8 0x0A) s = .fault .addressOutOfRange)) ∧
    (¬ PageExists s (readReg16 s .bx) → exec (.intImm8 0x0A) s = .fault .addressOutOfRange)

/-- int 0x20: one more event TerminateRequest, and nothing else changes (R199). -/
def Obligations.TerminateOnlyTellsTheHost : Prop :=
  ∀ s : State, SpecServices s →
    exec (.intImm8 0x20) s = .next { s with events := s.events ++ [.terminateRequest] } ∧
    (PageExists s s.ap → ∀ n, decode s.cfg (fetchWindow s s.ap s.ip) = .ok (.intImm8 0x20, n) → ∀ fuel,
      runSteps (fuel + 1) s =
        .terminated { s with ip := s.ip + BitVec.ofNat 16 n, events := s.events ++ [.terminateRequest] })

/-- ADD_W: result, carry, overflow and auxiliary carry, with both readings of overflow (R131). -/
def Obligations.AdditionFunctionMatchesItsRule : Prop :=
  let rule := fun (w : Nat) => ∀ a b : BitVec w,
    (addW a b).result.toNat = (a.toNat + b.toNat) % 2 ^ w ∧
    ((addW a b).carry = true ↔ 2 ^ w ≤ a.toNat + b.toNat) ∧
    ((addW a b).overflow = true ↔ topBit a = topBit b ∧ topBit (addW a b).result ≠ topBit a) ∧
    ((addW a b).overflow = outsideSigned w (a.toInt + b.toInt)) ∧
    ((addW a b).auxCarry = true ↔ 16 ≤ a.toNat % 16 + b.toNat % 16)
  rule 8 ∧ rule 16

/-- SUB_W: result, borrow, overflow and auxiliary borrow, and the AF identity for both functions (R132). -/
def Obligations.SubtractionFunctionMatchesItsRule : Prop :=
  let rule := fun (w : Nat) => ∀ a b : BitVec w,
    ((subW a b).result.toNat : Int) = ((a.toNat : Int) - b.toNat) % 2 ^ w ∧
    ((subW a b).carry = true ↔ a.toNat < b.toNat) ∧
    ((subW a b).overflow = true ↔ topBit a ≠ topBit b ∧ topBit (subW a b).result ≠ topBit a) ∧
    ((subW a b).overflow = outsideSigned w (a.toInt - b.toInt)) ∧
    ((subW a b).auxCarry = true ↔ a.toNat % 16 < b.toNat % 16) ∧
    ((subW a b).auxCarry = (a ^^^ b ^^^ (subW a b).result).getLsbD 4) ∧
    ((addW a b).auxCarry = (a ^^^ b ^^^ (addW a b).result).getLsbD 4)
  rule 8 ∧ rule 16

/-- ZF, SF and PF of a result, PF over the low byte at both widths (R130). -/
def Obligations.ResultFlagsMatchTheirRule : Prop :=
  let rule := fun (w : Nat) => ∀ r : BitVec w,
    (zfOf r = true ↔ r.toNat = 0) ∧ (sfOf r = r.getLsbD (w - 1)) ∧ (sfOf r = topBit r) ∧
    (pfOf r = evenOnes (BitVec.ofNat 8 r.toNat)) ∧ pfOf (BitVec.ofNat w 0) = true
  rule 8 ∧ rule 16 ∧ ∀ (a : Byte) (h : Byte), pfOf (wordOf a h) = pfOf a

/-- Frame of all 67 instructions: no register changes but the destination, and SP for push and pop (10_state.md R14; 41_mov.md to 46_int.md; 40_execution.md R128). -/
def Obligations.UnwrittenRegistersKeepTheirValues : Prop :=
  ∀ (i : Instr) (s t : State), exec i s = .next t →
    (∀ q, q ∉ writtenRegs i → readReg16 t q = readReg16 s q) ∧
    (∀ d, aliasDest i = some d → ∀ q, q ≠ d → readReg8 t q = readReg8 s q) ∧
    (writtenRegs i = [] → t.regs = s.regs)

/-- Frame of all 67 instructions: which flags each leaves alone, the table of R18, and that no memory or disk command writes one (R18). -/
def Obligations.UnwrittenFlagsKeepTheirValues : Prop :=
  (∀ (i : Instr) (s t : State), exec i s = .next t →
    (∀ f, f ∉ flagsWritten i.mnemonic → readFlag t f = readFlag s f) ∧
    (i.mnemonic = .and ∨ i.mnemonic = .or ∨ i.mnemonic = .xor → readFlag t .of = false ∧ readFlag t .cf = false)) ∧
  (∀ (s : State) (f : Fault), step s = .fault f → (stateAfter .step s).flags = s.flags) ∧
  (∀ (i : Instr) (s : State) (f : Fault), exec i s = .fault f →
    (stateAfter (.exec (decodedOf i)) s).flags = s.flags) ∧
  (∀ (s : State) (a b : Addr) (x y : Word) (v : Byte) (bs : List Byte) (p : Pattern) (q : Option Pattern)
    (n k : Nat) (g : Option Word) (file : Option (List Byte)) (c : Command),
    c ∈ [.peek a, .poke a v, .pokeString a bs, .fill a x q, .search a p, .compare a x b, .move a x b,
         .resolveRange g n k, .setPage y, .pageGet, .curSet y, .curGet, .codeStore bs, .diskLoad file, .diskSave,
         .diskRead a n k, .diskWrite a n k, .diskBytes n k] →
    (stateAfter c s).flags = s.flags)

/-- Frame of all 67 instructions: no byte of memory changes but those stored to, where the instruction stores (20_memory.md R44, R47; 45_stack.md R190; 46_int.md R196, R198). -/
def Obligations.BytesOutsideTheStoreKeepTheirValues : Prop :=
  ∀ (i : Instr) (s t : State), exec i s = .next t →
    (∀ base n, storedTo i s = some (base, n) → ∀ a, a < base ∨ base + n ≤ a → readPhys t.mem a = readPhys s.mem a) ∧
    (storedTo i s = none → ∀ a, readPhys t.mem a = readPhys s.mem a)

/-- Frame of all 67 instructions: IP, AP, CUR, the disk and the configuration, and the model's event and input fields but for int (10_state.md R20, R22, R23, R27, R10; 48_disk.md R240; 40_execution.md R121, R123). -/
def Obligations.InstructionsLeaveControlStateAndDisk : Prop :=
  (∀ (i : Instr) (s t : State), exec i s = .next t →
    t.ip = s.ip ∧ t.ap = s.ap ∧ t.cur = s.cur ∧ t.disk = s.disk ∧ t.cfg = s.cfg ∧
    (i.mnemonic ≠ .int → t.events = s.events ∧ t.hostLines = s.hostLines ∧ t.draws = s.draws)) ∧
  (∀ s t : State, step s = .next t → t.ap = s.ap ∧ t.cur = s.cur ∧ t.disk = s.disk ∧ t.cfg = s.cfg)

/-- Reading and writing an alias, byte by byte of its register (R13, R14). -/
def Obligations.AliasesAreViewsOfTheirRegister : Prop :=
  (∀ s : State,
    (readReg8 s .al).toNat = (readReg16 s .ax).toNat % 256 ∧ (readReg8 s .ah).toNat = (readReg16 s .ax).toNat / 256 ∧
    (readReg8 s .bl).toNat = (readReg16 s .bx).toNat % 256 ∧ (readReg8 s .bh).toNat = (readReg16 s .bx).toNat / 256 ∧
    (readReg8 s .cl).toNat = (readReg16 s .cx).toNat % 256 ∧ (readReg8 s .ch).toNat = (readReg16 s .cx).toNat / 256 ∧
    (readReg8 s .dl).toNat = (readReg16 s .dx).toNat % 256 ∧ (readReg8 s .dh).toNat = (readReg16 s .dx).toNat / 256) ∧
  (∀ (s : State) (r : Reg8) (v : Byte),
    writeReg8 s r v = writeReg16 s r.parent (match r.half with
      | .lo => BitVec.ofNat 16 ((readReg16 s r.parent).toNat / 256 * 256 + v.toNat)
      | .hi => BitVec.ofNat 16 (v.toNat * 256 + (readReg16 s r.parent).toNat % 256)) ∧
    readReg8 (writeReg8 s r v) r = v ∧ (∀ q, q ≠ r → readReg8 (writeReg8 s r v) q = readReg8 s q)) ∧
  (∀ (s : State) (v : Word),
    wordOf (readReg8 (writeReg16 s .ax v) .al) (readReg8 (writeReg16 s .ax v) .ah) = v ∧
    wordOf (readReg8 (writeReg16 s .bx v) .bl) (readReg8 (writeReg16 s .bx v) .bh) = v ∧
    wordOf (readReg8 (writeReg16 s .cx v) .cl) (readReg8 (writeReg16 s .cx v) .ch) = v ∧
    wordOf (readReg8 (writeReg16 s .dx v) .dl) (readReg8 (writeReg16 s .dx v) .dh) = v)

/-- REG, REGB (half and alias), FLAG and IP commands: what each reads, what each writes and leaves, and the refusal of unknown names (10_state.md R13, R14, R15, R16, R20; log entries 7 and 8 (which names a command accepts is in part the model's choice)). -/
def Obligations.RegisterFileCommandsReadBackWrites : Prop :=
  (∀ (s : State) (n : Text) (r : Reg16), regOfName s.cfg n = some (.reg16 r) →
    perform (.regGet n) s = .next (.word (readReg16 s r), s) ∧
    (∀ v : Word, ∃ t, perform (.regSet n v) s = .next (.unit, t) ∧ t = { s with regs := t.regs } ∧
      (∀ q, readReg16 t q = if q = r then v else readReg16 s q) ∧
      perform (.regGet n) t = .next (.word v, t) ∧
      perform (.regbGet (.half n .lo)) t = .next (.byte (BitVec.ofNat 8 (v.toNat % 256)), t) ∧
      perform (.regbGet (.half n .hi)) t = .next (.byte (BitVec.ofNat 8 (v.toNat / 256)), t)) ∧
    perform (.regbGet (.half n .lo)) s = .next (.byte (BitVec.ofNat 8 ((readReg16 s r).toNat % 256)), s) ∧
    perform (.regbGet (.half n .hi)) s = .next (.byte (BitVec.ofNat 8 ((readReg16 s r).toNat / 256)), s) ∧
    (∀ v : Byte, ∃ t, perform (.regbSet (.half n .lo) v) s = .next (.unit, t) ∧ t = { s with regs := t.regs } ∧
      ∀ q, (readReg16 t q).toNat =
        if q = r then (readReg16 s r).toNat / 256 * 256 + v.toNat else (readReg16 s q).toNat) ∧
    (∀ v : Byte, ∃ t, perform (.regbSet (.half n .hi) v) s = .next (.unit, t) ∧ t = { s with regs := t.regs } ∧
      ∀ q, (readReg16 t q).toNat =
        if q = r then v.toNat * 256 + (readReg16 s r).toNat % 256 else (readReg16 s q).toNat)) ∧
  (∀ (s : State) (n : Text) (r : Reg8), regOfName s.cfg n = some (.reg8 r) →
    perform (.regbGet (.alias8 n)) s = .next (.byte (readReg8 s r), s) ∧
    ∀ v : Byte, ∃ t, perform (.regbSet (.alias8 n) v) s = .next (.unit, t) ∧ t = { s with regs := t.regs } ∧
      (∀ q : Reg8, readReg8 t q = if q = r then v else readReg8 s q) ∧
      (∀ q : Reg16, q ≠ r.parent → readReg16 t q = readReg16 s q) ∧
      perform (.regbGet (.alias8 n)) t = .next (.byte v, t)) ∧
  (∀ (s : State) (n : Text) (f : Flag), Flag.ofName n = some f →
    perform (.flagGet n) s = .next (.bit (readFlag s f), s) ∧
    ∀ b : Bool, ∃ t, perform (.flagSet n b) s = .next (.unit, t) ∧ t = { s with flags := t.flags } ∧
      (∀ g, readFlag t g = if g = f then b else readFlag s g) ∧ perform (.flagGet n) t = .next (.bit b, t)) ∧
  (∀ s : State, s.cfg.tablesWf →
    (∀ r : Reg16, regOfName s.cfg r.name = some (.reg16 r)) ∧ (∀ r : Reg8, regOfName s.cfg r.name = some (.reg8 r)) ∧
    ∀ f : Flag, Flag.ofName f.name = some f) ∧
  (∀ s : State, perform .ipGet s = .next (.word s.ip, s) ∧
    ∀ o : Word, perform (.ipSet o) s = .next (.unit, { s with ip := o })) ∧
  (∀ (s : State) (n : Text) (v : Word) (h : Half) (b : Byte), (∀ r, regOfName s.cfg n ≠ some (.reg16 r)) →
    perform (.regGet n) s = .fault (.unknownRegister n) ∧ perform (.regSet n v) s = .fault (.unknownRegister n) ∧
    perform (.regbGet (.half n h)) s = .fault (.unknownRegister n) ∧
    perform (.regbSet (.half n h) b) s = .fault (.unknownRegister n)) ∧
  (∀ (s : State) (n : Text) (v : Byte), (∀ r, regOfName s.cfg n ≠ some (.reg8 r)) →
    perform (.regbGet (.alias8 n)) s = .fault (.unknownRegister n) ∧
    perform (.regbSet (.alias8 n) v) s = .fault (.unknownRegister n)) ∧
  (∀ (s : State) (n : Text) (b : Bool), Flag.ofName n = none →
    perform (.flagGet n) s = .fault (.unknownFlag n) ∧ perform (.flagSet n b) s = .fault (.unknownFlag n))

/-- All six flags are clear at reset, in every configuration with the spec's reset values (R280). -/
def Obligations.ResetClearsTheFlags : Prop :=
  (∀ (c : Config) (f : Flag), c.reset = specReset → readFlag (State.resetWith c) f = false) ∧ ∀ f : Flag, readFlag State.reset f = false

/-- Registers, IP, AP, CUR, memory and disk are zero at reset (the spec's decision D11), and the first step is a diagnostic (70_reset_and_hazards.md R281, R282, R283, R284 (the spec's own decision D11; log entries 1 and 2)). -/
def Obligations.ResetZeroesEverythingElse : Prop :=
  ∀ c : Config, c.wf → c.reset = specReset →
    (∀ r, readReg16 (State.resetWith c) r = 0) ∧ (State.resetWith c).ip = 0 ∧ (State.resetWith c).ap = 0 ∧
    (State.resetWith c).cur = 0 ∧ (∀ a, readPhys (State.resetWith c).mem a = 0x00) ∧
    (∀ a, readPhys (State.resetWith c).disk a = 0x00) ∧ (State.resetWith c).cfg = c ∧
    (SpecTables c → step (State.resetWith c) = .fault (.disassembleDiagnostic 0 0x00 .unknownOpcode))

/-- Translation is injective, and exactly the pairs of an existing page name a byte of memory (R40). -/
def Obligations.LogicalAddressesNameDistinctBytes : Prop :=
  (∀ p o q u : Word, phys p o = phys q u ↔ p = q ∧ o = u) ∧
  (∀ (c : Config) (p o : Word), phys p o < c.memSize ↔ p.toNat < c.nPages) ∧
  (∀ (c : Config) (a : Nat), c.sizesWf → a < c.memSize → ∃ p o : Word, p.toNat < c.nPages ∧ phys p o = a)

/-- The access primitives: what a write stores, what it leaves, and where an access is not performed (R47, R48). -/
def Obligations.MemoryWritesAreReadBack : Prop :=
  ∀ (s : State) (p o : Word),
    (PageExists s p →
      (∀ v, ∃ t, memWrite8 s p o v = .ok t ∧ t = { s with mem := t.mem } ∧ memRead8 t p o = .ok v ∧
        ∀ a, readPhys t.mem a = if a = phys p o then v else readPhys s.mem a) ∧
      (o.toNat + 1 ≤ 0xFFFF →
        ∀ v, ∃ t, memWrite16 s p o v = .ok t ∧ t = { s with mem := t.mem } ∧ memRead16 t p o = .ok v ∧
          memRead8 t p o = .ok (lowByte v) ∧ memRead8 t p (o + 1) = .ok (highByte v) ∧
          ∀ a, a ≠ phys p o → a ≠ phys p o + 1 → readPhys t.mem a = readPhys s.mem a)) ∧
    (¬ PageExists s p →
      memRead8 s p o = .error .addressOutOfRange ∧ ∀ v, memWrite8 s p o v = .error .addressOutOfRange) ∧
    (¬ (PageExists s p ∧ o.toNat + 2 - 1 ≤ 0xFFFF) →
      memRead16 s p o = .error .addressOutOfRange ∧ ∀ v, memWrite16 s p o v = .error .addressOutOfRange)

/-- POKE, POKE_STRING and PEEK by pair or by offset: the bytes stored and read, all else as before; OutOfRange past the page or for no page (R211, R212). -/
def Obligations.PokeStoresAndPeekReads : Prop :=
  ∀ (s : State) (a : Addr) (p o : Word) (b : Byte) (bytes : List Byte), Names s a p o →
    (PageExists s p →
      perform (.peek a) s = .next (.byte (readPhys s.mem (phys p o)), s) ∧
      (∃ t, perform (.poke a b) s = .next (.unit, t) ∧ t = { s with mem := t.mem } ∧
        perform (.peek a) t = .next (.byte b, t) ∧ ∀ x, x ≠ phys p o → readPhys t.mem x = readPhys s.mem x) ∧
      (o.toNat + bytes.length ≤ 0xFFFF + 1 →
        ∃ t, perform (.pokeString a bytes) s = .next (.unit, t) ∧ t = { s with mem := t.mem } ∧
          (∀ i, i < bytes.length → bytes[i]? = some (readPhys t.mem (phys p o + i))) ∧
          ∀ x, x < phys p o ∨ phys p o + bytes.length ≤ x → readPhys t.mem x = readPhys s.mem x) ∧
      perform (.pokeString a []) s = .next (.unit, s) ∧
      (0xFFFF + 1 < o.toNat + bytes.length → perform (.pokeString a bytes) s = .fault .outOfRange)) ∧
    (¬ PageExists s p → perform (.poke a b) s = .fault .outOfRange ∧ perform (.peek a) s = .fault .outOfRange ∧
      perform (.pokeString a bytes) s = .fault .outOfRange)

/-- FILL: byte i of the range is byte i mod n of the pattern, zero by default, no other byte changes; RESOLVE_RANGE: the end clamped to 0xFFFF (R213, R219). -/
def Obligations.FillCyclesThePatternOverTheRange : Prop :=
  (∀ (s : State) (a : Addr) (p start stop : Word), Names s a p start →
    (PageExists s p → start.toNat ≤ stop.toNat →
      (∀ pat : Pattern, ∃ t, perform (.fill a stop (some pat)) s = .next (.unit, t) ∧
        t = { s with mem := t.mem } ∧
        (∀ i, i ≤ stop.toNat - start.toNat →
          (patternBytes pat)[i % (patternBytes pat).length]? = some (readPhys t.mem (phys p start + i))) ∧
        ∀ x, x < phys p start ∨ phys p stop < x → readPhys t.mem x = readPhys s.mem x) ∧
      (∃ t, perform (.fill a stop none) s = .next (.unit, t) ∧ t = { s with mem := t.mem } ∧
        (∀ x, phys p start ≤ x → x ≤ phys p stop → readPhys t.mem x = 0x00) ∧
        ∀ x, x < phys p start ∨ phys p stop < x → readPhys t.mem x = readPhys s.mem x)) ∧
    (∀ q : Option Pattern, ¬ PageExists s p ∨ stop.toNat < start.toNat →
      perform (.fill a stop q) s = .fault .outOfRange)) ∧
  (∀ (s : State) (page : Option Word) (start stop : Nat),
    (PageExists s (page.getD s.ap) → start ≤ min stop 0xFFFF →
      perform (.resolveRange page start stop) s = .next (.range (page.getD s.ap) start (min stop 0xFFFF), s)) ∧
    (¬ PageExists s (page.getD s.ap) ∨ min stop 0xFFFF < start →
      perform (.resolveRange page start stop) s = .fault .outOfRange))

/-- SEARCH: the ascending list of exactly the offsets where the whole pattern stands inside the page (R215). -/
def Obligations.SearchFindsExactlyTheMatches : Prop :=
  ∀ (s : State) (a : Addr) (p start : Word) (pat : Pattern), Names s a p start →
    (PageExists s p → ∃ os : List Word, perform (.search a pat) s = .next (.offsets os, s) ∧
      os.Pairwise (fun x y => x.toNat < y.toNat) ∧
      ∀ q : Word, q ∈ os ↔ start.toNat ≤ q.toNat ∧ q.toNat + (patternBytes pat).length - 1 ≤ 0xFFFF ∧
        ∀ i, i < (patternBytes pat).length → (patternBytes pat)[i]? = some (readPhys s.mem (phys p q + i))) ∧
    (¬ PageExists s p → perform (.search a pat) s = .fault .outOfRange)

/-- COMPARE: the differing positions in ascending order with both bytes; OutOfRange past the page end (R216). -/
def Obligations.CompareListsExactlyTheDifferences : Prop :=
  ∀ (s : State) (a b : Addr) (pa start stop pb other : Word), Names s a pa start → Names s b pb other →
    (PageExists s pa → PageExists s pb → start.toNat ≤ stop.toNat →
      other.toNat + (stop.toNat - start.toNat + 1) - 1 ≤ 0xFFFF →
      ∃ ds : List (Word × Byte × Byte),
        perform (.compare a stop b) s = .next (.differences ds, s) ∧
        ds.Pairwise (fun x y => x.1.toNat < y.1.toNat) ∧
        ∀ (u : Word) (x y : Byte), (u, x, y) ∈ ds ↔ start.toNat ≤ u.toNat ∧ u.toNat ≤ stop.toNat ∧
          x = readPhys s.mem (phys pa u) ∧ y = readPhys s.mem (phys pb other + (u.toNat - start.toNat)) ∧ x ≠ y) ∧
    (¬ PageExists s pa ∨ ¬ PageExists s pb ∨ stop.toNat < start.toNat ∨
        0xFFFF < other.toNat + (stop.toNat - start.toNat + 1) - 1 →
      perform (.compare a stop b) s = .fault .outOfRange)

/-- MOVE: the range copied when the two ranges share no byte, OverlapError when they share one, OutOfRange first (R217). -/
def Obligations.MoveCopiesOrRefusesOverlap : Prop :=
  ∀ (s : State) (a b : Addr) (ps start stop pd dest : Word), Names s a ps start → Names s b pd dest →
    let n := stop.toNat - start.toNat + 1
    (PageExists s ps → PageExists s pd → start.toNat ≤ stop.toNat → dest.toNat + n - 1 ≤ 0xFFFF →
      ((∃ x, phys ps start ≤ x ∧ x < phys ps start + n ∧ phys pd dest ≤ x ∧ x < phys pd dest + n) →
        perform (.move a stop b) s = .fault .overlapError) ∧
      ((¬ ∃ x, phys ps start ≤ x ∧ x < phys ps start + n ∧ phys pd dest ≤ x ∧ x < phys pd dest + n) →
        ∃ t, perform (.move a stop b) s = .next (.unit, t) ∧ t = { s with mem := t.mem } ∧
          (∀ i, i < n → readPhys t.mem (phys pd dest + i) = readPhys s.mem (phys ps start + i)) ∧
          (∀ x, x < phys pd dest ∨ phys pd dest + n ≤ x → readPhys t.mem x = readPhys s.mem x))) ∧
    (¬ PageExists s ps ∨ ¬ PageExists s pd ∨ stop.toNat < start.toNat ∨ 0xFFFF < dest.toNat + n - 1 →
      perform (.move a stop b) s = .fault .outOfRange)

/-- SET_PAGE: AP and nothing else, OutOfRange for no such page; fetch, memory operands, push, pop and CODE_STORE then use the new page, int does not (R221, R44). -/
def Obligations.SetPageSelectsOnlyExistingPages : Prop :=
  ∀ (s : State) (q : Word),
    (¬ PageExists s q → perform (.setPage q) s = .fault .outOfRange) ∧
    (PageExists s q →
      let u := { s with ap := q }
      perform (.setPage q) s = .next (.unit, u) ∧ perform .pageGet u = .next (.word q, u) ∧
      (∀ (i : Instr) (n : Nat) (t : State),
        decode s.cfg (readBytes s.mem (phys q s.ip) (min 4 (65536 - s.ip.toNat))) = .ok (i, n) → exec i u = .next t →
        step u = .next { t with ip := BitVec.ofNat 16 ((s.ip.toNat + n) % 65536) }) ∧
      TwoMemoryForms movForms (fun _ b f => (b, f)) (fun _ b f => (b, f)) u q ∧
      TwoMemoryForms addForms addOut addOut u q ∧ TwoMemoryForms subForms subOut subOut u q ∧
      TwoMemoryForms andForms andOut andOut u q ∧ TwoMemoryForms orForms orOut orOut u q ∧
      TwoMemoryForms xorForms xorOut xorOut u q ∧
      (∀ r, 2 ≤ (readReg16 s .sp).toNat →
        exec (.pushReg16 r) u = .next { u with mem := store16 u q (readReg16 s .sp - 2) (readReg16 s r),
                                               regs := { s.regs with sp := s.regs.sp - 2 } }) ∧
      (∀ d, readReg16 s .sp ≠ 0xFFFF →
        ∃ t, exec (.popReg16 d) u = .next t ∧ readReg16 t d = word16 s q (readReg16 s .sp)) ∧
      (∀ bytes : List Byte, s.cur.toNat + bytes.length ≤ 0xFFFF + 1 →
        ∃ t, perform (.codeStore bytes) u = .next (.unit, t) ∧ t = { u with mem := t.mem, cur := t.cur } ∧
          (∀ i, i < bytes.length → bytes[i]? = some (readPhys t.mem (phys q s.cur + i))) ∧
          ∀ a, a < phys q s.cur ∨ phys q s.cur + bytes.length ≤ a → readPhys t.mem a = readPhys s.mem a) ∧
      (∀ n, exec (.intImm8 n) u = match exec (.intImm8 n) s with
        | .next t => .next { t with ap := q }
        | .fault f => .fault f
        | .refused r => .refused r))

/-- CODE_STORE: the bytes at (AP, CUR), CUR moved past them modulo 65536, refused when they would pass the page; CUR_GET and CUR_SET (R222, R223). -/
def Obligations.CodeStoreAdvancesTheCursor : Prop :=
  ∀ (s : State) (bytes : List Byte),
    (PageExists s s.ap → s.cur.toNat + bytes.length ≤ 0xFFFF + 1 →
      ∃ t, perform (.codeStore bytes) s = .next (.unit, t) ∧ t = { s with mem := t.mem, cur := t.cur } ∧
        t.cur.toNat = (s.cur.toNat + bytes.length) % 65536 ∧
        (∀ i, i < bytes.length → bytes[i]? = some (readPhys t.mem (phys s.ap s.cur + i))) ∧
        ∀ a, a < phys s.ap s.cur ∨ phys s.ap s.cur + bytes.length ≤ a → readPhys t.mem a = readPhys s.mem a) ∧
    (0xFFFF + 1 < s.cur.toNat + bytes.length → perform (.codeStore bytes) s = .fault .outOfRange) ∧
    (∀ (line : Text) (e : Err), assemble s.cfg line = .error e → assembleLine line s = .fault e) ∧
    (∀ line : Text, assemble s.cfg line = .ok bytes → assembleLine line s = perform (.codeStore bytes) s) ∧
    perform .curGet s = .next (.word s.cur, s) ∧
    (∀ o : Word, perform (.curSet o) s = .next (.unit, { s with cur := o }))

/-- DISK_LOAD: the file's bytes, zeros after a short or absent one, excess ignored; DISK_SAVE: the whole buffer; DISK_BYTES: a part of it (R232, R233, R239). -/
def Obligations.DiskLoadZeroFillsAndIgnoresExcess : Prop :=
  (∀ (s : State) (file : Option (List Byte)),
    ∃ t, perform (.diskLoad file) s = .next (.unit, t) ∧ t = { s with disk := t.disk } ∧
      (∀ i, i < s.cfg.diskSize →
        readPhys t.disk i = if h : i < (file.getD []).length then (file.getD [])[i] else 0x00) ∧
      (∀ i, s.cfg.diskSize ≤ i → readPhys t.disk i = 0x00) ∧
      perform (.diskLoad file) t = .next (.unit, t)) ∧
  (∀ s : State, ∃ image : List Byte,
    perform .diskSave s = .next (.unit, { s with events := s.events ++ [.fileImage image] }) ∧
    eventsOf .diskSave s = [.fileImage image] ∧ image.length = s.cfg.diskSize ∧
    ∀ i, i < s.cfg.diskSize → image[i]? = some (readPhys s.disk i)) ∧
  (∀ (s : State) (first last : Nat),
    (first ≤ last → last < s.cfg.diskSize →
      ∃ bs : List Byte, perform (.diskBytes first last) s = .next (.bytes bs, s) ∧ bs.length = last - first + 1 ∧
        ∀ i, i < last - first + 1 → bs[i]? = some (readPhys s.disk (first + i))) ∧
    (last < first ∨ s.cfg.diskSize ≤ last → perform (.diskBytes first last) s = .fault .outOfRange))

/-- DISK_READ and DISK_WRITE: the sectors copied, the other store and every other byte as before, OutOfRange otherwise (R235, R236, R237). -/
def Obligations.DiskTransfersMoveWholeSectors : Prop :=
  ∀ (s : State) (a : Addr) (p o : Word) (first count : Nat), Names s a p o →
    (first + count ≤ s.cfg.sectorCount → PageExists s p →
      phys p o + count * s.cfg.sectorSize ≤ s.cfg.nPages * 65536 →
      (∃ t, perform (.diskRead a first count) s = .next (.unit, t) ∧ t = { s with mem := t.mem } ∧
        (∀ i, i < count * s.cfg.sectorSize →
          readPhys t.mem (phys p o + i) = readPhys s.disk (first * s.cfg.sectorSize + i)) ∧
        ∀ x, x < phys p o ∨ phys p o + count * s.cfg.sectorSize ≤ x → readPhys t.mem x = readPhys s.mem x) ∧
      (∃ t, perform (.diskWrite a first count) s = .next (.unit, t) ∧ t = { s with disk := t.disk } ∧
        (∀ i, i < count * s.cfg.sectorSize →
          readPhys t.disk (first * s.cfg.sectorSize + i) = readPhys s.mem (phys p o + i)) ∧
        ∀ x, x < first * s.cfg.sectorSize ∨ (first + count) * s.cfg.sectorSize ≤ x →
          readPhys t.disk x = readPhys s.disk x)) ∧
    (s.cfg.sectorCount < first + count ∨ ¬ PageExists s p ∨
        s.cfg.nPages * 65536 < phys p o + count * s.cfg.sectorSize →
      perform (.diskRead a first count) s = .fault .outOfRange ∧
      perform (.diskWrite a first count) s = .fault .outOfRange)

/-- Sectors written from one address and read to another give back the bytes (48_disk.md R238 (derived)). -/
def Obligations.DiskRoundTripReturnsTheBytes : Prop :=
  ∀ (s t u : State) (a b : Addr) (p o q r : Word) (first count : Nat), Names s a p o → Names t b q r →
    perform (.diskWrite a first count) s = .next (.unit, t) →
    perform (.diskRead b first count) t = .next (.unit, u) →
    ∀ i, i < count * s.cfg.sectorSize →
      readPhys u.mem (phys q r + i) = readPhys s.mem (phys p o + i) ∧
      (phys p o + count * s.cfg.sectorSize ≤ phys q r ∨ phys q r + count * s.cfg.sectorSize ≤ phys p o →
        readPhys u.mem (phys q r + i) = readPhys u.mem (phys p o + i))

/-- The sector unit, byte by byte through CHECK and COPY, ends where the atomic transfer command does (48_disk.md R231 (derived); log entry 13 (the unit as a machine beside the session)). -/
def Obligations.SectorUnitRefinesAtomicTransfer : Prop :=
  ∀ (s : State) (dir : Direction) (p o : Word) (first count : Nat),
    let t : Transfer := ⟨dir, p, o, first, count⟩
    let c : Command := match dir with
      | .diskToMemory => .diskRead (.full p o) first count
      | .memoryToDisk => .diskWrite (.full p o) first count
    let u := unitRun s.cfg t (count * s.cfg.sectorSize + 2) (unitStart s)
    u.phase = .idle ∧ u.mem = (stateAfter c s).mem ∧ u.disk = (stateAfter c s).disk ∧
      (u.report = some none ↔ perform c s = .next (.unit, stateAfter c s)) ∧
      (u.report = some (some .outOfRange) ↔ perform c s = .fault .outOfRange) ∧
      (unitStep s.cfg t (unitStart s)).mem = s.mem ∧ (unitStep s.cfg t (unitStart s)).disk = s.disk

end
end

