-- ==== Sys2Proof/Laws/State.lean ====
section
/-! SUPPORT. The small lemmas of the state's updates: what each leaves of every field, and what is read after a register or a
flag is written. -/

namespace Sys2Proof.Machine

/-! ### writeReg16 -/

@[simp] theorem writeReg16_cfg (s : State) (r : Reg16) (v : Word) : (writeReg16 s r v).cfg = s.cfg := by cases r <;> rfl
@[simp] theorem writeReg16_flags (s : State) (r : Reg16) (v : Word) : (writeReg16 s r v).flags = s.flags := by cases r <;> rfl
@[simp] theorem writeReg16_ip (s : State) (r : Reg16) (v : Word) : (writeReg16 s r v).ip = s.ip := by cases r <;> rfl
@[simp] theorem writeReg16_ap (s : State) (r : Reg16) (v : Word) : (writeReg16 s r v).ap = s.ap := by cases r <;> rfl
@[simp] theorem writeReg16_cur (s : State) (r : Reg16) (v : Word) : (writeReg16 s r v).cur = s.cur := by cases r <;> rfl
@[simp] theorem writeReg16_mem (s : State) (r : Reg16) (v : Word) : (writeReg16 s r v).mem = s.mem := by cases r <;> rfl
@[simp] theorem writeReg16_disk (s : State) (r : Reg16) (v : Word) : (writeReg16 s r v).disk = s.disk := by cases r <;> rfl
@[simp] theorem writeReg16_events (s : State) (r : Reg16) (v : Word) : (writeReg16 s r v).events = s.events := by cases r <;> rfl
@[simp] theorem writeReg16_hostLines (s : State) (r : Reg16) (v : Word) : (writeReg16 s r v).hostLines = s.hostLines := by cases r <;> rfl
@[simp] theorem writeReg16_draws (s : State) (r : Reg16) (v : Word) : (writeReg16 s r v).draws = s.draws := by cases r <;> rfl

/-! ### writeHalf -/

@[simp] theorem writeHalf_cfg (s : State) (r : Reg16) (h : Half) (v : Byte) : (writeHalf s r h v).cfg = s.cfg := by cases h <;> cases r <;> rfl
@[simp] theorem writeHalf_flags (s : State) (r : Reg16) (h : Half) (v : Byte) : (writeHalf s r h v).flags = s.flags := by cases h <;> cases r <;> rfl
@[simp] theorem writeHalf_ip (s : State) (r : Reg16) (h : Half) (v : Byte) : (writeHalf s r h v).ip = s.ip := by cases h <;> cases r <;> rfl
@[simp] theorem writeHalf_ap (s : State) (r : Reg16) (h : Half) (v : Byte) : (writeHalf s r h v).ap = s.ap := by cases h <;> cases r <;> rfl
@[simp] theorem writeHalf_cur (s : State) (r : Reg16) (h : Half) (v : Byte) : (writeHalf s r h v).cur = s.cur := by cases h <;> cases r <;> rfl
@[simp] theorem writeHalf_mem (s : State) (r : Reg16) (h : Half) (v : Byte) : (writeHalf s r h v).mem = s.mem := by cases h <;> cases r <;> rfl
@[simp] theorem writeHalf_disk (s : State) (r : Reg16) (h : Half) (v : Byte) : (writeHalf s r h v).disk = s.disk := by cases h <;> cases r <;> rfl
@[simp] theorem writeHalf_events (s : State) (r : Reg16) (h : Half) (v : Byte) : (writeHalf s r h v).events = s.events := by cases h <;> cases r <;> rfl
@[simp] theorem writeHalf_hostLines (s : State) (r : Reg16) (h : Half) (v : Byte) : (writeHalf s r h v).hostLines = s.hostLines := by cases h <;> cases r <;> rfl
@[simp] theorem writeHalf_draws (s : State) (r : Reg16) (h : Half) (v : Byte) : (writeHalf s r h v).draws = s.draws := by cases h <;> cases r <;> rfl

/-! ### writeReg8 -/

@[simp] theorem writeReg8_cfg (s : State) (r : Reg8) (v : Byte) : (writeReg8 s r v).cfg = s.cfg := by cases r <;> rfl
@[simp] theorem writeReg8_flags (s : State) (r : Reg8) (v : Byte) : (writeReg8 s r v).flags = s.flags := by cases r <;> rfl
@[simp] theorem writeReg8_ip (s : State) (r : Reg8) (v : Byte) : (writeReg8 s r v).ip = s.ip := by cases r <;> rfl
@[simp] theorem writeReg8_ap (s : State) (r : Reg8) (v : Byte) : (writeReg8 s r v).ap = s.ap := by cases r <;> rfl
@[simp] theorem writeReg8_cur (s : State) (r : Reg8) (v : Byte) : (writeReg8 s r v).cur = s.cur := by cases r <;> rfl
@[simp] theorem writeReg8_mem (s : State) (r : Reg8) (v : Byte) : (writeReg8 s r v).mem = s.mem := by cases r <;> rfl
@[simp] theorem writeReg8_disk (s : State) (r : Reg8) (v : Byte) : (writeReg8 s r v).disk = s.disk := by cases r <;> rfl
@[simp] theorem writeReg8_events (s : State) (r : Reg8) (v : Byte) : (writeReg8 s r v).events = s.events := by cases r <;> rfl
@[simp] theorem writeReg8_hostLines (s : State) (r : Reg8) (v : Byte) : (writeReg8 s r v).hostLines = s.hostLines := by cases r <;> rfl
@[simp] theorem writeReg8_draws (s : State) (r : Reg8) (v : Byte) : (writeReg8 s r v).draws = s.draws := by cases r <;> rfl

/-! ### writeFlag -/

@[simp] theorem writeFlag_cfg (s : State) (f : Flag) (b : Bool) : (writeFlag s f b).cfg = s.cfg := by cases f <;> rfl
@[simp] theorem writeFlag_regs (s : State) (f : Flag) (b : Bool) : (writeFlag s f b).regs = s.regs := by cases f <;> rfl
@[simp] theorem writeFlag_ip (s : State) (f : Flag) (b : Bool) : (writeFlag s f b).ip = s.ip := by cases f <;> rfl
@[simp] theorem writeFlag_ap (s : State) (f : Flag) (b : Bool) : (writeFlag s f b).ap = s.ap := by cases f <;> rfl
@[simp] theorem writeFlag_cur (s : State) (f : Flag) (b : Bool) : (writeFlag s f b).cur = s.cur := by cases f <;> rfl
@[simp] theorem writeFlag_mem (s : State) (f : Flag) (b : Bool) : (writeFlag s f b).mem = s.mem := by cases f <;> rfl
@[simp] theorem writeFlag_disk (s : State) (f : Flag) (b : Bool) : (writeFlag s f b).disk = s.disk := by cases f <;> rfl
@[simp] theorem writeFlag_events (s : State) (f : Flag) (b : Bool) : (writeFlag s f b).events = s.events := by cases f <;> rfl
@[simp] theorem writeFlag_hostLines (s : State) (f : Flag) (b : Bool) : (writeFlag s f b).hostLines = s.hostLines := by cases f <;> rfl
@[simp] theorem writeFlag_draws (s : State) (f : Flag) (b : Bool) : (writeFlag s f b).draws = s.draws := by cases f <;> rfl

/-! ### emit -/

@[simp] theorem emit_cfg (s : State) (e : Event) : (emit s e).cfg = s.cfg := rfl
@[simp] theorem emit_regs (s : State) (e : Event) : (emit s e).regs = s.regs := rfl
@[simp] theorem emit_flags (s : State) (e : Event) : (emit s e).flags = s.flags := rfl
@[simp] theorem emit_ip (s : State) (e : Event) : (emit s e).ip = s.ip := rfl
@[simp] theorem emit_ap (s : State) (e : Event) : (emit s e).ap = s.ap := rfl
@[simp] theorem emit_cur (s : State) (e : Event) : (emit s e).cur = s.cur := rfl
@[simp] theorem emit_mem (s : State) (e : Event) : (emit s e).mem = s.mem := rfl
@[simp] theorem emit_disk (s : State) (e : Event) : (emit s e).disk = s.disk := rfl
@[simp] theorem emit_hostLines (s : State) (e : Event) : (emit s e).hostLines = s.hostLines := rfl
@[simp] theorem emit_draws (s : State) (e : Event) : (emit s e).draws = s.draws := rfl

@[simp] theorem emit_events (s : State) (e : Event) : (emit s e).events = s.events ++ [e] := rfl

/-! ### supplyLine -/

@[simp] theorem supplyLine_cfg (s : State) (l : List Byte) : (supplyLine s l).cfg = s.cfg := rfl
@[simp] theorem supplyLine_regs (s : State) (l : List Byte) : (supplyLine s l).regs = s.regs := rfl
@[simp] theorem supplyLine_flags (s : State) (l : List Byte) : (supplyLine s l).flags = s.flags := rfl
@[simp] theorem supplyLine_ip (s : State) (l : List Byte) : (supplyLine s l).ip = s.ip := rfl
@[simp] theorem supplyLine_ap (s : State) (l : List Byte) : (supplyLine s l).ap = s.ap := rfl
@[simp] theorem supplyLine_cur (s : State) (l : List Byte) : (supplyLine s l).cur = s.cur := rfl
@[simp] theorem supplyLine_mem (s : State) (l : List Byte) : (supplyLine s l).mem = s.mem := rfl
@[simp] theorem supplyLine_disk (s : State) (l : List Byte) : (supplyLine s l).disk = s.disk := rfl
@[simp] theorem supplyLine_events (s : State) (l : List Byte) : (supplyLine s l).events = s.events := rfl
@[simp] theorem supplyLine_draws (s : State) (l : List Byte) : (supplyLine s l).draws = s.draws := rfl

/-! ### advanceIp -/

@[simp] theorem advanceIp_cfg (s : State) (n : Nat) : (advanceIp s n).cfg = s.cfg := rfl
@[simp] theorem advanceIp_regs (s : State) (n : Nat) : (advanceIp s n).regs = s.regs := rfl
@[simp] theorem advanceIp_flags (s : State) (n : Nat) : (advanceIp s n).flags = s.flags := rfl
@[simp] theorem advanceIp_ap (s : State) (n : Nat) : (advanceIp s n).ap = s.ap := rfl
@[simp] theorem advanceIp_cur (s : State) (n : Nat) : (advanceIp s n).cur = s.cur := rfl
@[simp] theorem advanceIp_mem (s : State) (n : Nat) : (advanceIp s n).mem = s.mem := rfl
@[simp] theorem advanceIp_disk (s : State) (n : Nat) : (advanceIp s n).disk = s.disk := rfl
@[simp] theorem advanceIp_events (s : State) (n : Nat) : (advanceIp s n).events = s.events := rfl
@[simp] theorem advanceIp_hostLines (s : State) (n : Nat) : (advanceIp s n).hostLines = s.hostLines := rfl
@[simp] theorem advanceIp_draws (s : State) (n : Nat) : (advanceIp s n).draws = s.draws := rfl

@[simp] theorem advanceIp_ip (s : State) (n : Nat) : (advanceIp s n).ip = s.ip + BitVec.ofNat 16 n := rfl

/-! ### storeLine -/

@[simp] theorem storeLine_cfg (s : State) (l : List Byte) : (storeLine s l).cfg = s.cfg := rfl
@[simp] theorem storeLine_regs (s : State) (l : List Byte) : (storeLine s l).regs = s.regs := rfl
@[simp] theorem storeLine_flags (s : State) (l : List Byte) : (storeLine s l).flags = s.flags := rfl
@[simp] theorem storeLine_ip (s : State) (l : List Byte) : (storeLine s l).ip = s.ip := rfl
@[simp] theorem storeLine_ap (s : State) (l : List Byte) : (storeLine s l).ap = s.ap := rfl
@[simp] theorem storeLine_cur (s : State) (l : List Byte) : (storeLine s l).cur = s.cur := rfl
@[simp] theorem storeLine_disk (s : State) (l : List Byte) : (storeLine s l).disk = s.disk := rfl
@[simp] theorem storeLine_events (s : State) (l : List Byte) : (storeLine s l).events = s.events := rfl
@[simp] theorem storeLine_hostLines (s : State) (l : List Byte) : (storeLine s l).hostLines = s.hostLines := rfl
@[simp] theorem storeLine_draws (s : State) (l : List Byte) : (storeLine s l).draws = s.draws := rfl

/-! ### drawLine -/

@[simp] theorem drawLine_cfg (s : State) : ((drawLine s).2).cfg = s.cfg := by unfold drawLine; split <;> rfl
@[simp] theorem drawLine_regs (s : State) : ((drawLine s).2).regs = s.regs := by unfold drawLine; split <;> rfl
@[simp] theorem drawLine_flags (s : State) : ((drawLine s).2).flags = s.flags := by unfold drawLine; split <;> rfl
@[simp] theorem drawLine_ip (s : State) : ((drawLine s).2).ip = s.ip := by unfold drawLine; split <;> rfl
@[simp] theorem drawLine_ap (s : State) : ((drawLine s).2).ap = s.ap := by unfold drawLine; split <;> rfl
@[simp] theorem drawLine_cur (s : State) : ((drawLine s).2).cur = s.cur := by unfold drawLine; split <;> rfl
@[simp] theorem drawLine_mem (s : State) : ((drawLine s).2).mem = s.mem := by unfold drawLine; split <;> rfl
@[simp] theorem drawLine_disk (s : State) : ((drawLine s).2).disk = s.disk := by unfold drawLine; split <;> rfl
@[simp] theorem drawLine_events (s : State) : ((drawLine s).2).events = s.events := by unfold drawLine; split <;> rfl

/-! ### withFetchWord -/

@[simp] theorem withFetchWord_cfg (s : State) (n w : Nat) : (s.withFetchWord n w).cfg = s.cfg := rfl
@[simp] theorem withFetchWord_regs (s : State) (n w : Nat) : (s.withFetchWord n w).regs = s.regs := rfl
@[simp] theorem withFetchWord_flags (s : State) (n w : Nat) : (s.withFetchWord n w).flags = s.flags := rfl
@[simp] theorem withFetchWord_ip (s : State) (n w : Nat) : (s.withFetchWord n w).ip = s.ip := rfl
@[simp] theorem withFetchWord_ap (s : State) (n w : Nat) : (s.withFetchWord n w).ap = s.ap := rfl
@[simp] theorem withFetchWord_cur (s : State) (n w : Nat) : (s.withFetchWord n w).cur = s.cur := rfl
@[simp] theorem withFetchWord_disk (s : State) (n w : Nat) : (s.withFetchWord n w).disk = s.disk := rfl
@[simp] theorem withFetchWord_events (s : State) (n w : Nat) : (s.withFetchWord n w).events = s.events := rfl
@[simp] theorem withFetchWord_hostLines (s : State) (n w : Nat) : (s.withFetchWord n w).hostLines = s.hostLines := rfl
@[simp] theorem withFetchWord_draws (s : State) (n w : Nat) : (s.withFetchWord n w).draws = s.draws := rfl

/-! ### diskLoad -/

@[simp] theorem diskLoad_cfg (s : State) (f : Option (List Byte)) : (diskLoad s f).cfg = s.cfg := rfl
@[simp] theorem diskLoad_regs (s : State) (f : Option (List Byte)) : (diskLoad s f).regs = s.regs := rfl
@[simp] theorem diskLoad_flags (s : State) (f : Option (List Byte)) : (diskLoad s f).flags = s.flags := rfl
@[simp] theorem diskLoad_ip (s : State) (f : Option (List Byte)) : (diskLoad s f).ip = s.ip := rfl
@[simp] theorem diskLoad_ap (s : State) (f : Option (List Byte)) : (diskLoad s f).ap = s.ap := rfl
@[simp] theorem diskLoad_cur (s : State) (f : Option (List Byte)) : (diskLoad s f).cur = s.cur := rfl
@[simp] theorem diskLoad_mem (s : State) (f : Option (List Byte)) : (diskLoad s f).mem = s.mem := rfl
@[simp] theorem diskLoad_events (s : State) (f : Option (List Byte)) : (diskLoad s f).events = s.events := rfl
@[simp] theorem diskLoad_hostLines (s : State) (f : Option (List Byte)) : (diskLoad s f).hostLines = s.hostLines := rfl
@[simp] theorem diskLoad_draws (s : State) (f : Option (List Byte)) : (diskLoad s f).draws = s.draws := rfl

/-! ### diskSave -/

@[simp] theorem diskSave_cfg (s : State) : (diskSave s).cfg = s.cfg := rfl
@[simp] theorem diskSave_regs (s : State) : (diskSave s).regs = s.regs := rfl
@[simp] theorem diskSave_flags (s : State) : (diskSave s).flags = s.flags := rfl
@[simp] theorem diskSave_ip (s : State) : (diskSave s).ip = s.ip := rfl
@[simp] theorem diskSave_ap (s : State) : (diskSave s).ap = s.ap := rfl
@[simp] theorem diskSave_cur (s : State) : (diskSave s).cur = s.cur := rfl
@[simp] theorem diskSave_mem (s : State) : (diskSave s).mem = s.mem := rfl
@[simp] theorem diskSave_disk (s : State) : (diskSave s).disk = s.disk := rfl
@[simp] theorem diskSave_hostLines (s : State) : (diskSave s).hostLines = s.hostLines := rfl
@[simp] theorem diskSave_draws (s : State) : (diskSave s).draws = s.draws := rfl

/-! ### Reading a register -/

@[simp] theorem readReg16_with_mem (s : State) (x : Memory) (r : Reg16) :
    readReg16 { s with mem := x } r = readReg16 s r := by cases r <;> rfl
@[simp] theorem readReg16_with_disk (s : State) (x : Memory) (r : Reg16) :
    readReg16 { s with disk := x } r = readReg16 s r := by cases r <;> rfl
@[simp] theorem readReg16_with_flags (s : State) (x : Flags) (r : Reg16) :
    readReg16 { s with flags := x } r = readReg16 s r := by cases r <;> rfl
@[simp] theorem readReg16_with_ip (s : State) (x : Word) (r : Reg16) :
    readReg16 { s with ip := x } r = readReg16 s r := by cases r <;> rfl
@[simp] theorem readReg16_with_ap (s : State) (x : Word) (r : Reg16) :
    readReg16 { s with ap := x } r = readReg16 s r := by cases r <;> rfl
@[simp] theorem readReg16_with_cur (s : State) (x : Word) (r : Reg16) :
    readReg16 { s with cur := x } r = readReg16 s r := by cases r <;> rfl
@[simp] theorem readReg16_with_events (s : State) (x : List Event) (r : Reg16) :
    readReg16 { s with events := x } r = readReg16 s r := by cases r <;> rfl
@[simp] theorem readReg16_with_hostLines (s : State) (x : List (List Byte)) (r : Reg16) :
    readReg16 { s with hostLines := x } r = readReg16 s r := by cases r <;> rfl
@[simp] theorem readReg16_with_draws (s : State) (x : Nat) (r : Reg16) :
    readReg16 { s with draws := x } r = readReg16 s r := by cases r <;> rfl

/-- A register read sees the register file alone. -/
theorem readReg16_congr {s t : State} (h : s.regs = t.regs) (r : Reg16) : readReg16 s r = readReg16 t r := by
  cases r <;> simp [readReg16, h]

theorem readHalf_congr {s t : State} (h : s.regs = t.regs) (r : Reg16) (k : Half) : readHalf s r k = readHalf t r k := by
  cases k <;> simp [readHalf, readReg16_congr h]

theorem readReg8_congr {s t : State} (h : s.regs = t.regs) (r : Reg8) : readReg8 s r = readReg8 t r :=
  readHalf_congr h _ _

@[simp] theorem readReg16_writeReg16_same (s : State) (r : Reg16) (v : Word) :
    readReg16 (writeReg16 s r v) r = v := by cases r <;> rfl

theorem readReg16_writeReg16_other (s : State) {r q : Reg16} (v : Word) (h : q ≠ r) :
    readReg16 (writeReg16 s r v) q = readReg16 s q := by
  cases r <;> cases q <;> first | rfl | exact absurd rfl h

/-- Bit `i` of a word made of two bytes. -/
theorem getLsbD_wordOf (l h : Byte) (i : Nat) :
    (wordOf l h).getLsbD i = if i < 8 then l.getLsbD i else h.getLsbD (i - 8) := by
  change (h ++ l).getLsbD i = _
  rw [BitVec.getLsbD_append]

@[simp] theorem lowByte_wordOf (l h : Byte) : lowByte (wordOf l h) = l := by
  ext i hi
  simp [lowByte, getLsbD_wordOf, hi, BitVec.getLsbD_eq_getElem]

@[simp] theorem highByte_wordOf (l h : Byte) : highByte (wordOf l h) = h := by
  ext i hi
  simp [highByte, getLsbD_wordOf, BitVec.getLsbD_eq_getElem, hi]

@[simp] theorem wordOf_lowByte_highByte (v : Word) : wordOf (lowByte v) (highByte v) = v := by
  apply BitVec.eq_of_getLsbD_eq
  intro i hi
  rw [getLsbD_wordOf]
  split
  · simp [lowByte, *]
  · simp [highByte, show i - 8 < 8 by omega, show 8 + (i - 8) = i by omega]

@[simp] theorem readHalf_writeHalf_same (s : State) (r : Reg16) (h : Half) (v : Byte) :
    readHalf (writeHalf s r h v) r h = v := by
  cases h <;> simp [readHalf, writeHalf]

/-- Writing one byte of a register leaves the other (R14). -/
theorem readHalf_writeHalf_sibling (s : State) (r : Reg16) {h k : Half} (v : Byte) (hk : k ≠ h) :
    readHalf (writeHalf s r h v) r k = readHalf s r k := by
  cases h <;> cases k <;> first | exact absurd rfl hk | simp [readHalf, writeHalf]

theorem readHalf_writeHalf_other (s : State) {r q : Reg16} (h k : Half) (v : Byte) (hq : q ≠ r) :
    readHalf (writeHalf s r h v) q k = readHalf s q k := by
  cases h <;> cases k <;> simp [readHalf, writeHalf, readReg16_writeReg16_other s _ hq]

theorem readReg16_writeHalf_other (s : State) {r q : Reg16} (h : Half) (v : Byte) (hq : q ≠ r) :
    readReg16 (writeHalf s r h v) q = readReg16 s q := by
  cases h <;> simp [writeHalf, readReg16_writeReg16_other s _ hq]

@[simp] theorem readReg8_writeReg8_same (s : State) (r : Reg8) (v : Byte) : readReg8 (writeReg8 s r v) r = v :=
  readHalf_writeHalf_same s r.parent r.half v

theorem readReg8_writeReg8_other (s : State) {r q : Reg8} (v : Byte) (h : q ≠ r) :
    readReg8 (writeReg8 s r v) q = readReg8 s q := by
  unfold readReg8 writeReg8
  rcases eq_or_ne q.parent r.parent with hp | hp
  · rw [hp]
    refine readHalf_writeHalf_sibling s r.parent v fun hh => h ?_
    revert hp hh
    cases q <;> cases r <;> decide
  · exact readHalf_writeHalf_other s _ _ v hp

theorem readReg16_writeReg8_other (s : State) {r : Reg8} {q : Reg16} (v : Byte) (h : q ≠ r.parent) :
    readReg16 (writeReg8 s r v) q = readReg16 s q := readReg16_writeHalf_other s r.half v h

/-! ### Reading a flag -/

@[simp] theorem readFlag_writeFlag_same (s : State) (f : Flag) (b : Bool) : readFlag (writeFlag s f b) f = b := by
  cases f <;> rfl

theorem readFlag_writeFlag_other (s : State) {f g : Flag} (b : Bool) (h : g ≠ f) :
    readFlag (writeFlag s f b) g = readFlag s g := by
  cases f <;> cases g <;> first | rfl | exact absurd rfl h

theorem readFlag_congr {s t : State} (h : s.flags = t.flags) (f : Flag) : readFlag s f = readFlag t f := by
  cases f <;> simp [readFlag, h]

end Sys2Proof.Machine
end

