-- ==== Sys2Proof/Laws/Decode.lean ====
section
/-! SUPPORT. The tables, the decoder and the encoder: what each register index, opcode byte and signature gives, for every
configuration whose tables are well formed. -/

namespace Sys2Proof

/-! ### Looking up a table without repeats -/

/-- The first row with a given value of an injective column is the row that has it. -/
theorem find?_eq_some_of_nodup {α β : Type} [DecidableEq β] {f : α → β} {t : List α} {e : α} (h : (t.map f).Nodup)
    (he : e ∈ t) : t.find? (fun x => f x == f e) = some e := by
  induction t with
  | nil => cases he
  | cons a t ih =>
    rw [List.map_cons, List.nodup_cons] at h
    rcases List.mem_cons.mp he with rfl | he
    · simp
    · have hne : f a ≠ f e := fun hf => h.1 (List.mem_map.mpr ⟨e, he, hf.symm⟩)
      rw [List.find?_cons_of_neg (by simpa using hne), ih h.2 he]

/-! ### The register-name table (R12) -/

theorem mem_allRegNames (n : RegName) : n ∈ allRegNames := by
  rcases n with r | r <;> cases r <;> decide

/-- Every name has a row, which its name and its index both find. -/
theorem RegTable.row {t : List RegEntry} (h : RegTable.wf t) (n : RegName) :
    ∃ e ∈ t, e.name = n ∧ t.find? (fun x => x.name == n) = some e ∧ t.find? (fun x => x.index == e.index) = some e := by
  obtain ⟨e, he, rfl⟩ := List.mem_map.mp (h.2.2 n (mem_allRegNames n))
  exact ⟨e, he, rfl, find?_eq_some_of_nodup h.2.1 he, find?_eq_some_of_nodup h.1 he⟩

/-- The index of a name names it. -/
theorem regOfIndex_indexOf {c : Config} (h : RegTable.wf c.regTable) (n : RegName) : regOfIndex c (indexOf c n) = some n := by
  obtain ⟨e, -, rfl, hn, hi⟩ := RegTable.row h n
  simp [regOfIndex, indexOf, hn, hi]

/-- A byte names only the name whose index it is. -/
theorem indexOf_of_regOfIndex {c : Config} (h : RegTable.wf c.regTable) {b : Byte} {n : RegName}
    (hb : regOfIndex c b = some n) : indexOf c n = b := by
  obtain ⟨e, he, rfl⟩ := Option.map_eq_some_iff.mp hb
  have hm := List.mem_of_find?_eq_some he
  have hx : e.index = b := by simpa using List.find?_some he
  simp [indexOf, find?_eq_some_of_nodup h.2.1 hm, hx]

theorem RegName.text_injective {a b : RegName} (h : a.text = b.text) : a = b := by
  have : ∀ x ∈ allRegNames, ∀ y ∈ allRegNames, x.text = y.text → x = y := by decide +kernel
  exact this a (mem_allRegNames a) b (mem_allRegNames b) h

theorem upperText_text (n : RegName) : upperText n.text = n.text := by
  rcases n with r | r <;> cases r <;> decide

/-- Every name finds its register, whatever order the table has. -/
theorem regOfName_text {c : Config} (h : RegTable.wf c.regTable) (n : RegName) : regOfName c n.text = some n := by
  have hf : (fun e : RegEntry => e.name.text == upperText n.text) = fun e => e.name == n := by
    funext e
    rw [upperText_text, Bool.eq_iff_iff, beq_iff_eq, beq_iff_eq]
    exact ⟨RegName.text_injective, congrArg _⟩
  obtain ⟨e, -, rfl, hn, -⟩ := RegTable.row h n
  rw [regOfName, hf, hn]
  rfl

@[simp] theorem Flag.ofName_name (f : Flag) : Flag.ofName f.name = some f := by cases f <;> decide

@[simp] theorem Mnemonic.ofName_name (m : Mnemonic) : Mnemonic.ofName m.name = some m := by cases m <;> decide

/-! ### The opcode table (R80) -/

/-- Every entry is found by its opcode byte and by its key. -/
theorem OpTable.found {c : Config} (h : OpTable.wf c.opTable) {e : Entry} (he : e ∈ c.opTable) :
    entryOfOpcode c e.opcode = some e ∧ entryOfKey c e.mnemonic e.signature = some e :=
  ⟨find?_eq_some_of_nodup h.1 he, by
    have hk := find?_eq_some_of_nodup h.2.1 he
    simp only [beq_eq_decide] at hk
    simp only [entryOfKey, beq_eq_decide]
    exact hk⟩

theorem mem_allMnemonics (m : Mnemonic) : m ∈ allMnemonics := by cases m <;> decide

/-- Every signature of a mnemonic has a table entry with exactly that key. -/
theorem entryOfKey_of_mem {c : Config} (h : OpTable.wf c.opTable) {m : Mnemonic} {sig : List Shape}
    (hs : sig ∈ m.signatures) :
    ∃ e ∈ c.opTable, entryOfKey c m sig = some e ∧ e.mnemonic = m ∧ e.signature = sig := by
  obtain ⟨e, he, hk⟩ := List.mem_map.mp (h.2.2.2 m (mem_allMnemonics m) sig hs)
  obtain ⟨rfl, rfl⟩ := Prod.mk.injEq .. ▸ hk
  exact ⟨e, he, (OpTable.found h he).2, rfl, rfl⟩

theorem entryOfOpcode_eq_some {c : Config} {b : Byte} {e : Entry} (h : entryOfOpcode c b = some e) :
    e ∈ c.opTable ∧ e.opcode = b :=
  ⟨List.mem_of_find?_eq_some h, by simpa using List.find?_some h⟩

theorem entryOfKey_eq_some {c : Config} {m : Mnemonic} {sig : List Shape} {e : Entry} (h : entryOfKey c m sig = some e) :
    e ∈ c.opTable ∧ e.mnemonic = m ∧ e.signature = sig :=
  ⟨List.mem_of_find?_eq_some h, by simpa [Entry.key] using List.find?_some h⟩

/-- The keys of a well-formed table are the signatures of the mnemonics. -/
theorem shapesOk_iff {c : Config} (h : OpTable.wf c.opTable) (m : Mnemonic) (ops : List Operand) :
    shapesOk c m ops = true ↔ ops.map Operand.shape ∈ m.signatures := by
  unfold shapesOk
  rw [List.any_eq_true]
  constructor
  · rintro ⟨e, he, hk⟩
    obtain ⟨rfl, hs⟩ : e.mnemonic = m ∧ e.signature = ops.map Operand.shape := by simpa [Entry.key] using hk
    exact hs ▸ (h.2.2.1 e he).1
  · intro hs
    obtain ⟨e, he, -, rfl, hsig⟩ := entryOfKey_of_mem h hs
    exact ⟨e, he, by simp [Entry.key, hsig]⟩

/-! ### Instructions and their parts -/

/-- The parts of an instruction make that instruction. -/
@[simp] theorem Instr.ofParts_parts (i : Instr) : Instr.ofParts i.mnemonic i.operands = some i := by
  cases i <;> rfl

/-- The parts an instruction was made from are its own. -/
theorem Instr.parts_of_ofParts {m : Mnemonic} {ops : List Operand} {i : Instr} (h : Instr.ofParts m ops = some i) :
    i.mnemonic = m ∧ i.operands = ops := by
  unfold Instr.ofParts at h
  split at h <;> first | cases h; exact ⟨rfl, rfl⟩ | cases h

/-- The signature of an instruction is one of its mnemonic's. -/
theorem Instr.signature_mem (i : Instr) : i.operands.map Operand.shape ∈ i.mnemonic.signatures := by
  cases i <;> (simp only [Instr.operands, Instr.mnemonic, Instr.parts, List.map_cons, List.map_nil, Operand.shape]; decide)

/-- Every instruction of the syntax is a table entry with no immediate destination. -/
theorem Instr.wellFormed_of_tablesWf {c : Config} (h : c.tablesWf) (i : Instr) : i.wellFormed c = true := by
  have hd : destinationOk i.mnemonic i.operands = true := by cases i <;> rfl
  rw [Instr.wellFormed, partsOk, hd, (shapesOk_iff h.2 _ _).mpr i.signature_mem]
  rfl

/-- A mnemonic with operands of one of its signatures' shapes makes an instruction (R90: what the decoder reads is always
a table entry). -/
theorem Instr.ofParts_isSome {m : Mnemonic} {ops : List Operand} (h : ops.map Operand.shape ∈ m.signatures) :
    ∃ i, Instr.ofParts m ops = some i := by
  match ops with
  | [] =>
    revert h
    cases m <;> (intro h; simp [Mnemonic.signatures, twoOperandSignatures] at h)
  | [a] =>
    revert h
    cases m <;> cases a <;>
      first
        | exact fun _ => ⟨_, rfl⟩
        | (intro h; simp [Mnemonic.signatures, twoOperandSignatures, Operand.shape] at h)
  | [a, b] =>
    revert h
    cases m <;> cases a <;> cases b <;>
      first
        | exact fun _ => ⟨_, rfl⟩
        | (intro h; simp [Mnemonic.signatures, twoOperandSignatures, Operand.shape] at h)
  | a :: b :: c :: t =>
    exfalso
    have hlen : ∀ (m : Mnemonic), ∀ sig ∈ m.signatures, sig.length ≤ 2 := by intro m; cases m <;> decide
    have := hlen m _ h
    simp only [List.map_cons, List.length_cons] at this
    omega

/-- The entry of an instruction. -/
theorem Instr.entry {c : Config} (h : OpTable.wf c.opTable) (i : Instr) :
    ∃ e ∈ c.opTable, entryOfKey c i.mnemonic i.signature = some e ∧ e.mnemonic = i.mnemonic ∧ e.signature = i.signature :=
  entryOfKey_of_mem h i.signature_mem

/-! ### Operand fields and instructions (R73, R90) -/

/-- The field of an operand decodes to that operand. -/
theorem decodeOperand_encodeOperand {c : Config} (h : RegTable.wf c.regTable) (op : Operand) (rest : List Byte) :
    decodeOperand c op.shape (encodeOperand c op ++ rest) = .ok (op, rest) := by
  cases op <;> simp [encodeOperand, decodeOperand, Operand.shape, regOfIndex_indexOf h, Machine.wordBytes]

/-- An operand that decodes has the field's shape, and the field is its own. -/
theorem decodeOperand_eq_ok {c : Config} (h : RegTable.wf c.regTable) {sh : Shape} {bs rest : List Byte} {op : Operand}
    (hd : decodeOperand c sh bs = .ok (op, rest)) : op.shape = sh ∧ bs = encodeOperand c op ++ rest := by
  cases sh <;> rcases bs with _ | ⟨b, _ | ⟨b', t⟩⟩ <;> simp only [decodeOperand] at hd <;>
    first
      | (cases hd; done)
      | (split at hd <;> cases hd
         exact ⟨rfl, by simp [encodeOperand, indexOf_of_regOfIndex h ‹_›]⟩)
      | (cases hd; exact ⟨rfl, by simp [encodeOperand, Machine.wordBytes]⟩)

/-- The fields of an operand list decode to that list. -/
theorem decodeOperands_encode {c : Config} (h : RegTable.wf c.regTable) (ops : List Operand) (rest : List Byte) :
    decodeOperands c (ops.map Operand.shape) (ops.flatMap (encodeOperand c) ++ rest) = .ok ops := by
  induction ops with
  | nil => rfl
  | cons o os ih =>
    simp only [List.map_cons, List.flatMap_cons, List.append_assoc, decodeOperands, decodeOperand_encodeOperand h, ih]

/-- Operands that decode have the signature's shapes, and the fields are their own. -/
theorem decodeOperands_eq_ok {c : Config} (h : RegTable.wf c.regTable) {sig : List Shape} {bs : List Byte}
    {ops : List Operand} (hd : decodeOperands c sig bs = .ok ops) :
    ops.map Operand.shape = sig ∧ ∃ t, bs = ops.flatMap (encodeOperand c) ++ t := by
  induction sig generalizing bs ops with
  | nil => cases hd; exact ⟨rfl, bs, rfl⟩
  | cons s ss ih =>
    unfold decodeOperands at hd
    split at hd
    · cases hd
    split at hd <;> cases hd
    obtain ⟨h1, h2⟩ := decodeOperand_eq_ok h ‹_›
    obtain ⟨h3, t, h4⟩ := ih ‹_›
    exact ⟨by simp [h1, h3], t, by simp [h2, h4]⟩

/-- What the decoder answers for a leading byte, by the entry it selects (R90). -/
theorem decode_cons_none {c : Config} {b : Byte} (h : entryOfOpcode c b = none) (t : List Byte) :
    decode c (b :: t) = .error .unknownOpcode := by
  simp [decode, h]

theorem decode_cons_short {c : Config} {b : Byte} {e : Entry} {t : List Byte} (h : entryOfOpcode c b = some e)
    (hl : t.length + 1 < entryLength e) : decode c (b :: t) = .error .truncated := by
  simp [decode, h, hl]

theorem decode_cons_full {c : Config} {b : Byte} {e : Entry} {t : List Byte} (h : entryOfOpcode c b = some e)
    (hl : entryLength e ≤ t.length + 1) :
    decode c (b :: t) = match decodeOperands c e.signature t with
      | .error r => .error r
      | .ok ops =>
        match Instr.ofParts e.mnemonic ops with
        | some i => .ok (i, entryLength e)
        | none => .error .unknownOpcode := by
  have : ¬ t.length + 1 < entryLength e := by omega
  simp only [decode, h, List.length_cons, this, if_false] <;> rfl

/-! ### The spec's tables and the default configuration -/

theorem specRegTable_wf : RegTable.wf Machine.specRegTable := by decide +kernel

theorem specOpTable_wf : OpTable.wf Machine.specOpTable := by decide +kernel

theorem defaultConfig_wf : Machine.defaultConfig.wf := by
  refine ⟨by decide, ⟨specRegTable_wf, specOpTable_wf⟩, by decide, ?_⟩
  decide

end Sys2Proof
end

