-- ==== Sys2Proof/Laws/Memory.lean ====
section
/-! SUPPORT. The laws of a store: a read after a write, at one index and over a range; the canonical form and the size kept
by every operation; two canonical stores that read alike are equal. -/

namespace Sys2Proof.Machine

/-! ### One byte -/

theorem readPhys_of_not_listed (m : Memory) (a : Nat) (h : ∀ c ∈ m, c.1 ≠ a) : readPhys m a = unlistedByte := by
  induction m with
  | nil => rfl
  | cons c t ih =>
    have hc : c.1 ≠ a := h c (by simp)
    have ht : ∀ x ∈ t, x.1 ≠ a := fun x hx => h x (by simp [hx])
    simp [readPhys, hc, ih ht]

theorem readPhys_filter_other (m : Memory) {a x : Nat} (h : x ≠ a) :
    readPhys (m.filter fun c => c.1 != a) x = readPhys m x := by
  induction m with
  | nil => rfl
  | cons c t ih =>
    rcases eq_or_ne c.1 a with hc | hc
    · have hx : c.1 ≠ x := by omega
      simp [readPhys, hc, ih, show a ≠ x from fun e => h e.symm]
    · simp [readPhys, hc, ih]

theorem readPhys_insertCell (m : Memory) (a : Nat) (b : Byte) (x : Nat) (h : ∀ c ∈ m, c.1 ≠ a) :
    readPhys (insertCell m (a, b)) x = if a = x then b else readPhys m x := by
  induction m with
  | nil => simp [insertCell, readPhys]
  | cons c t ih =>
    have hc : c.1 ≠ a := h c (by simp)
    have ht : ∀ y ∈ t, y.1 ≠ a := fun y hy => h y (by simp [hy])
    unfold insertCell
    split
    · simp [readPhys]
    · rcases eq_or_ne a x with rfl | hx
      · simp [readPhys, ih ht, hc]
      · simp [readPhys, ih ht, hx]

/-- What a write changes: the byte at its index, and no other. -/
theorem readPhys_writePhys (m : Memory) (a : Nat) (b : Byte) (x : Nat) :
    readPhys (writePhys m a b) x = if x = a then b else readPhys m x := by
  have hgone : ∀ c ∈ m.filter (fun c => c.1 != a), c.1 ≠ a := by
    intro c hc
    simpa using (List.mem_filter.mp hc).2
  unfold writePhys
  rcases eq_or_ne x a with hx | hx
  · subst hx
    split
    · next hb => simp [readPhys_of_not_listed _ _ hgone, hb]
    · simp [readPhys_insertCell _ _ _ _ hgone]
  · have hax : a ≠ x := fun e => hx e.symm
    split
    · simp [readPhys_filter_other m hx]
    · simp [readPhys_insertCell _ _ _ _ hgone, readPhys_filter_other m hx, hax]

@[simp] theorem readPhys_writePhys_same (m : Memory) (a : Nat) (b : Byte) : readPhys (writePhys m a b) a = b := by
  simp [readPhys_writePhys]

theorem readPhys_writePhys_other (m : Memory) {a x : Nat} (b : Byte) (h : x ≠ a) :
    readPhys (writePhys m a b) x = readPhys m x := by
  simp [readPhys_writePhys, h]

/-! ### A range -/

/-- What a write of several bytes changes: the bytes of its range, and no other. -/
theorem readPhys_writeBytes (m : Memory) (a : Nat) (bs : List Byte) (x : Nat) :
    readPhys (writeBytes m a bs) x =
      if a ≤ x ∧ x < a + bs.length then bs.getD (x - a) 0 else readPhys m x := by
  induction bs generalizing m a with
  | nil =>
    have : ¬ (a ≤ x ∧ x < a) := by omega
    simp [writeBytes, this]
  | cons b bs ih =>
    rw [writeBytes, ih, readPhys_writePhys, List.length_cons]
    rcases Nat.lt_trichotomy x a with h | h | h
    · have h1 : ¬ (a + 1 ≤ x ∧ x < a + 1 + bs.length) := by omega
      have h2 : ¬ (a ≤ x ∧ x < a + (bs.length + 1)) := by omega
      have h3 : x ≠ a := by omega
      simp only [if_neg h1, if_neg h2, if_neg h3]
    · subst h
      simp
    · have h3 : x ≠ a := by omega
      have hs : x - a = (x - (a + 1)) + 1 := by omega
      by_cases hin : x < a + 1 + bs.length
      · have h1 : a + 1 ≤ x ∧ x < a + 1 + bs.length := by omega
        have h2 : a ≤ x ∧ x < a + (bs.length + 1) := by omega
        simp only [if_pos h1, if_pos h2, hs, List.getD_cons_succ]
      · have h1 : ¬ (a + 1 ≤ x ∧ x < a + 1 + bs.length) := by omega
        have h2 : ¬ (a ≤ x ∧ x < a + (bs.length + 1)) := by omega
        simp only [if_neg h1, if_neg h2, if_neg h3]

theorem readPhys_writeBytes_other (m : Memory) {a x : Nat} (bs : List Byte) (h : x < a ∨ a + bs.length ≤ x) :
    readPhys (writeBytes m a bs) x = readPhys m x := by
  rw [readPhys_writeBytes, if_neg (by omega)]

@[simp] theorem length_readBytes (m : Memory) (a n : Nat) : (readBytes m a n).length = n := by
  simp [readBytes]

theorem getElem_readBytes (m : Memory) (a n i : Nat) (h : i < (readBytes m a n).length) :
    (readBytes m a n)[i] = readPhys m (a + i) := by
  simp [readBytes]

/-- Reading back the range just written gives the bytes written. -/
theorem readBytes_writeBytes (m : Memory) (a : Nat) (bs : List Byte) :
    readBytes (writeBytes m a bs) a bs.length = bs := by
  apply List.ext_getElem
  · simp
  · intro i h1 h2
    rw [getElem_readBytes, readPhys_writeBytes, if_pos (by omega), Nat.add_sub_cancel_left]
    simp [h2]

theorem writeBytes_append (m : Memory) (a : Nat) (bs cs : List Byte) :
    writeBytes m a (bs ++ cs) = writeBytes (writeBytes m a bs) (a + bs.length) cs := by
  induction bs generalizing m a with
  | nil => simp [writeBytes]
  | cons b bs ih =>
    rw [List.cons_append, writeBytes, writeBytes, ih]
    congr 1
    simp only [List.length_cons]
    omega

/-! ### The canonical form and the size -/

theorem mem_insertCell {m : Memory} {c x : Host.Cell} : x ∈ insertCell m c ↔ x = c ∨ x ∈ m := by
  induction m with
  | nil => simp [insertCell]
  | cons d t ih =>
    unfold insertCell
    split
    · simp
    · simp [ih, or_left_comm]

theorem pairwise_insertCell {m : Memory} {c : Host.Cell} (h : m.Pairwise fun x y => x.1 < y.1)
    (hc : ∀ x ∈ m, x.1 ≠ c.1) : (insertCell m c).Pairwise fun x y => x.1 < y.1 := by
  induction m with
  | nil => simp [insertCell]
  | cons d t ih =>
    rw [List.pairwise_cons] at h
    have hd : d.1 ≠ c.1 := hc d (by simp)
    have ht : ∀ x ∈ t, x.1 ≠ c.1 := fun x hx => hc x (by simp [hx])
    unfold insertCell
    split
    · next hlt =>
      rw [List.pairwise_cons, List.pairwise_cons]
      refine ⟨fun x hx => ?_, h⟩
      rcases List.mem_cons.mp hx with rfl | hx
      · exact hlt
      · exact hlt.trans (h.1 x hx)
    · next hge =>
      rw [List.pairwise_cons]
      refine ⟨fun x hx => ?_, ih h.2 ht⟩
      rcases mem_insertCell.mp hx with rfl | hx
      · omega
      · exact h.1 x hx

theorem writePhys_wf {m : Memory} (h : m.wf) (a : Nat) (b : Byte) : (writePhys m a b).wf := by
  unfold writePhys
  have hs : (m.filter fun c => c.1 != a).Pairwise fun x y => x.1 < y.1 := h.1.filter _
  have hb : ∀ c ∈ m.filter (fun c => c.1 != a), c.2 ≠ unlistedByte := fun c hc => h.2 c (List.mem_filter.mp hc).1
  have hn : ∀ c ∈ m.filter (fun c => c.1 != a), c.1 ≠ a := fun c hc => by simpa using (List.mem_filter.mp hc).2
  split
  · exact ⟨hs, hb⟩
  · next hbne =>
    refine ⟨pairwise_insertCell hs hn, fun c hc => ?_⟩
    rcases mem_insertCell.mp hc with rfl | hc
    · exact hbne
    · exact hb c hc

theorem writePhys_below {m : Memory} {size a : Nat} (h : m.below size) (ha : a < size) (b : Byte) :
    (writePhys m a b).below size := by
  unfold writePhys
  have hb : ∀ c ∈ m.filter (fun c => c.1 != a), c.1 < size := fun c hc => h c (List.mem_filter.mp hc).1
  split
  · exact hb
  · intro c hc
    rcases mem_insertCell.mp hc with rfl | hc
    · exact ha
    · exact hb c hc

theorem writeBytes_wf {m : Memory} (h : m.wf) (a : Nat) (bs : List Byte) : (writeBytes m a bs).wf := by
  induction bs generalizing m a with
  | nil => exact h
  | cons b bs ih => exact ih (writePhys_wf h a b) (a + 1)

theorem writeBytes_below {m : Memory} {size a : Nat} (h : m.below size) (bs : List Byte)
    (ha : a + bs.length ≤ size) : (writeBytes m a bs).below size := by
  induction bs generalizing m a with
  | nil => exact h
  | cons b bs ih =>
    rw [List.length_cons] at ha
    exact ih (writePhys_below h (by omega) b) (by omega)

theorem storeOf_cons (a : Nat) (b : Byte) (bs : List Byte) :
    storeOf a (b :: bs) = if b = unlistedByte then storeOf (a + 1) bs else (a, b) :: storeOf (a + 1) bs := rfl

theorem mem_storeOf {a : Nat} {bs : List Byte} {c : Host.Cell} (h : c ∈ storeOf a bs) :
    a ≤ c.1 ∧ c.1 < a + bs.length ∧ c.2 ≠ unlistedByte := by
  induction bs generalizing a with
  | nil => simp [storeOf] at h
  | cons b bs ih =>
    rw [storeOf_cons] at h
    rw [List.length_cons]
    split at h
    · obtain ⟨h1, h2, h3⟩ := ih h
      exact ⟨by omega, by omega, h3⟩
    · next hb =>
      rcases List.mem_cons.mp h with rfl | h
      · exact ⟨le_refl _, by dsimp only; omega, hb⟩
      · obtain ⟨h1, h2, h3⟩ := ih h
        exact ⟨by omega, by omega, h3⟩

theorem storeOf_wf (a : Nat) (bs : List Byte) : (storeOf a bs).wf := by
  refine ⟨?_, fun c hc => (mem_storeOf hc).2.2⟩
  induction bs generalizing a with
  | nil => simp [storeOf]
  | cons b bs ih =>
    rw [storeOf_cons]
    split
    · exact ih (a + 1)
    · refine List.pairwise_cons.mpr ⟨fun c hc => ?_, ih (a + 1)⟩
      have := (mem_storeOf hc).1
      exact this

theorem readPhys_storeOf (a : Nat) (bs : List Byte) (x : Nat) :
    readPhys (storeOf a bs) x = if a ≤ x ∧ x < a + bs.length then bs.getD (x - a) 0 else 0 := by
  induction bs generalizing a with
  | nil =>
    have : ¬ (a ≤ x ∧ x < a) := by omega
    simp [storeOf, readPhys, this]
  | cons b bs ih =>
    have key : readPhys (storeOf a (b :: bs)) x = if x = a then b else readPhys (storeOf (a + 1) bs) x := by
      rw [storeOf_cons]
      split
      · next hb =>
        rcases eq_or_ne x a with hx | hx
        · rw [if_pos hx, readPhys_of_not_listed _ _ fun c hc => by have := (mem_storeOf hc).1; omega, hb]
        · rw [if_neg hx]
      · rcases eq_or_ne x a with hx | hx
        · simp [readPhys, hx]
        · simp [readPhys, hx, show a ≠ x from fun e => hx e.symm]
    rw [key, ih, List.length_cons]
    rcases Nat.lt_trichotomy x a with h | h | h
    · have h1 : ¬ (a + 1 ≤ x ∧ x < a + 1 + bs.length) := by omega
      have h2 : ¬ (a ≤ x ∧ x < a + (bs.length + 1)) := by omega
      have h3 : x ≠ a := by omega
      simp only [if_neg h1, if_neg h2, if_neg h3]
    · subst h
      simp
    · have h3 : x ≠ a := by omega
      have hs : x - a = (x - (a + 1)) + 1 := by omega
      by_cases hin : x < a + 1 + bs.length
      · have h1 : a + 1 ≤ x ∧ x < a + 1 + bs.length := by omega
        have h2 : a ≤ x ∧ x < a + (bs.length + 1) := by omega
        simp only [if_neg h3, if_pos h1, if_pos h2, hs, List.getD_cons_succ]
      · have h1 : ¬ (a + 1 ≤ x ∧ x < a + 1 + bs.length) := by omega
        have h2 : ¬ (a ≤ x ∧ x < a + (bs.length + 1)) := by omega
        simp only [if_neg h1, if_neg h2, if_neg h3]

/-- Two canonical stores that read alike at every index are the same data. -/
theorem memory_ext {m n : Memory} (hm : m.wf) (hn : n.wf) (h : ∀ x, readPhys m x = readPhys n x) : m = n := by
  induction m generalizing n with
  | nil =>
    cases n with
    | nil => rfl
    | cons d u =>
      exfalso
      refine hn.2 d (by simp) ?_
      simpa [readPhys] using (h d.1).symm
  | cons c t ih =>
    have hct := List.pairwise_cons.mp hm.1
    cases n with
    | nil =>
      exfalso
      refine hm.2 c (by simp) ?_
      simpa [readPhys] using h c.1
    | cons d u =>
      have hdu := List.pairwise_cons.mp hn.1
      have notIn : ∀ {e : Host.Cell} {l : Memory}, (∀ y ∈ l, e.1 < y.1) → ∀ {k}, k ≤ e.1 →
          readPhys l k = unlistedByte := fun hl _ hk =>
        readPhys_of_not_listed _ _ fun y hy => by have := hl y hy; omega
      have hkey : c.1 = d.1 := by
        rcases Nat.lt_trichotomy c.1 d.1 with hlt | heq | hgt
        · exfalso
          refine hm.2 c (by simp) ?_
          have h1 := h c.1
          rw [readPhys, readPhys, if_pos rfl, if_neg (by omega), notIn hdu.1 (by omega)] at h1
          exact h1
        · exact heq
        · exfalso
          refine hn.2 d (by simp) ?_
          have h1 := h d.1
          rw [readPhys, readPhys, if_pos rfl, if_neg (by omega), notIn hct.1 (by omega)] at h1
          exact h1.symm
      have hval : c.2 = d.2 := by
        have h1 := h c.1
        rw [readPhys, readPhys, if_pos rfl, if_pos hkey.symm] at h1
        exact h1
      have htail : t = u := by
        refine ih ⟨hct.2, fun x hx => hm.2 x (by simp [hx])⟩ ⟨hdu.2, fun x hx => hn.2 x (by simp [hx])⟩ fun x => ?_
        rcases eq_or_ne c.1 x with hx | hx
        · rw [notIn hct.1 (by omega), notIn hdu.1 (by omega)]
        · have h1 := h x
          rw [readPhys, readPhys, if_neg hx, if_neg (by omega)] at h1
          exact h1
      rw [htail, Prod.ext hkey hval]

/-- The empty store is canonical. -/
theorem nil_wf : Memory.wf [] := ⟨List.Pairwise.nil, by simp⟩

end Sys2Proof.Machine
end

