-- ==== Sys2Proof/Laws/Ops.lean ====
section
/-! SUPPORT. What each shared operation can answer: one lemma an operation, to cite instead of unfolding it. -/

namespace Sys2Proof.Machine

/-! ### Addresses -/

theorem validPage_eq (c : Config) (p : Word) : validPage c p = true ↔ p.toNat < c.nPages := by
  simp [validPage]

theorem phys_inj {p o q u : Word} : phys p o = phys q u ↔ p = q ∧ o = u := by
  refine ⟨fun h => ?_, fun ⟨h, k⟩ => by rw [h, k]⟩
  have hp := p.isLt; have ho := o.isLt; have hq := q.isLt; have hu := u.isLt
  simp only [phys, pageSize] at h
  exact ⟨BitVec.eq_of_toNat_eq (by omega), BitVec.eq_of_toNat_eq (by omega)⟩

theorem phys_lt_memSize {c : Config} {p o : Word} : phys p o < c.memSize ↔ p.toNat < c.nPages := by
  have ho := o.isLt
  simp only [phys, Config.memSize, pageSize]
  constructor <;> intro h
  · by_contra hc
    have : c.nPages * 65536 ≤ p.toNat * 65536 := Nat.mul_le_mul_right _ (by omega)
    omega
  · have : (p.toNat + 1) * 65536 ≤ c.nPages * 65536 := Nat.mul_le_mul_right _ (by omega)
    omega

/-- A range that starts in an existing page and stays within it lies within memory. -/
theorem phys_add_le_memSize {c : Config} {p o : Word} {n : Nat} (hp : p.toNat < c.nPages)
    (hn : o.toNat + n ≤ pageSize) : phys p o + n ≤ c.memSize := by
  simp only [phys, Config.memSize, pageSize] at *
  have : (p.toNat + 1) * 65536 ≤ c.nPages * 65536 := Nat.mul_le_mul_right _ (by omega)
  omega

/-! ### The access primitives (R46, R47, R48) -/

theorem memRead8_ok {s : State} {p o : Word} (h : p.toNat < s.cfg.nPages) :
    memRead8 s p o = .ok (readPhys s.mem (phys p o)) := by
  simp [memRead8, validPage, h, byteAt]

theorem memRead8_error {s : State} {p o : Word} (h : ¬ p.toNat < s.cfg.nPages) :
    memRead8 s p o = .error .addressOutOfRange := by
  simp [memRead8, validPage, h]

theorem memRead16_ok {s : State} {p o : Word} (h : p.toNat < s.cfg.nPages) (ho : o.toNat + 1 ≤ 0xFFFF) :
    memRead16 s p o = .ok (wordOf (readPhys s.mem (phys p o)) (readPhys s.mem (phys p o + 1))) := by
  rw [memRead16, if_pos ⟨(validPage_eq _ _).mpr h, ho⟩]

theorem memRead16_error {s : State} {p o : Word} (h : ¬ (p.toNat < s.cfg.nPages ∧ o.toNat + 1 ≤ 0xFFFF)) :
    memRead16 s p o = .error .addressOutOfRange := by
  rw [memRead16, if_neg (by rwa [validPage_eq])]

theorem memWrite8_ok {s : State} {p o : Word} {v : Byte} (h : p.toNat < s.cfg.nPages) :
    memWrite8 s p o v = .ok { s with mem := writePhys s.mem (phys p o) v } := by
  simp [memWrite8, validPage, h]

theorem memWrite8_error {s : State} {p o : Word} {v : Byte} (h : ¬ p.toNat < s.cfg.nPages) :
    memWrite8 s p o v = .error .addressOutOfRange := by
  simp [memWrite8, validPage, h]

theorem memWrite16_ok {s : State} {p o v : Word} (h : p.toNat < s.cfg.nPages) (ho : o.toNat + 1 ≤ 0xFFFF) :
    memWrite16 s p o v = .ok { s with mem := writeBytes s.mem (phys p o) (wordBytes v) } := by
  rw [memWrite16, if_pos ⟨(validPage_eq _ _).mpr h, ho⟩]

theorem memWrite16_error {s : State} {p o v : Word} (h : ¬ (p.toNat < s.cfg.nPages ∧ o.toNat + 1 ≤ 0xFFFF)) :
    memWrite16 s p o v = .error .addressOutOfRange := by
  rw [memWrite16, if_neg (by rwa [validPage_eq])]

/-! ### What a write to a place answers -/

theorem writeLoc8_ok_iff {s t : State} {l : Loc8} {v : Byte} :
    writeLoc8 s l v = .ok t ↔
      (∃ r, l = .reg r ∧ t = writeReg8 s r v) ∨
      (∃ m, l = .mem m ∧ s.ap.toNat < s.cfg.nPages ∧ t = { s with mem := writePhys s.mem (phys s.ap m) v }) := by
  cases l with
  | reg r => simp [writeLoc8, eq_comm]
  | mem m =>
    by_cases h : s.ap.toNat < s.cfg.nPages
    · simp [writeLoc8, memWrite8_ok h, h, eq_comm]
    · simp [writeLoc8, memWrite8_error h, h]

theorem writeLoc16_ok_iff {s t : State} {l : Loc16} {v : Word} :
    writeLoc16 s l v = .ok t ↔
      (∃ r, l = .reg r ∧ t = writeReg16 s r v) ∨
      (∃ m, l = .mem m ∧ s.ap.toNat < s.cfg.nPages ∧ m.toNat + 1 ≤ 0xFFFF ∧
        t = { s with mem := writeBytes s.mem (phys s.ap m) (wordBytes v) }) := by
  cases l with
  | reg r => simp [writeLoc16, eq_comm]
  | mem m =>
    by_cases h : s.ap.toNat < s.cfg.nPages ∧ m.toNat + 1 ≤ 0xFFFF
    · simp only [writeLoc16, memWrite16_ok h.1 h.2]
      constructor
      · intro h'; cases h'; exact .inr ⟨m, rfl, h.1, h.2, rfl⟩
      · rintro (⟨r, hr, _⟩ | ⟨k, hk, _, _, rfl⟩)
        · cases hr
        · cases hk; rfl
    · simp only [writeLoc16, memWrite16_error h]
      constructor
      · intro h'; cases h'
      · rintro (⟨r, hr, _⟩ | ⟨k, hk, h1, h2, _⟩)
        · cases hr
        · cases hk; exact absurd ⟨h1, h2⟩ h

/-! ### The shapes of instruction -/

theorem orRaise_next {α : Type} {x : Except Fault α} {k : α → Result} {t : State} :
    orRaise x k = .next t ↔ ∃ v, x = .ok v ∧ k v = .next t := by
  cases x <;> simp [orRaise, raiseError]

theorem orRaise_fault {α : Type} {x : Except Fault α} {k : α → Result} {f : Fault} :
    orRaise x k = .fault f ↔ x = .error f ∨ ∃ v, x = .ok v ∧ k v = .fault f := by
  cases x <;> simp [orRaise, raiseError]

theorem orRaise_refused {α : Type} {x : Except Fault α} {k : α → Result} {r : Refusal} :
    orRaise x k = .refused r ↔ ∃ v, x = .ok v ∧ k v = .refused r := by
  cases x <;> simp [orRaise, raiseError]

/-- A copy answers the source's value written to the destination. -/
theorem copy8_next {d : Loc8} {src : Src8} {s t : State} :
    copy8 d src s = .next t ↔ ∃ v, readSrc8 s src = .ok v ∧ writeLoc8 s d v = .ok t := by
  simp [copy8, orRaise_next]

theorem copy16_next {d : Loc16} {src : Src16} {s t : State} :
    copy16 d src s = .next t ↔ ∃ v, readSrc16 s src = .ok v ∧ writeLoc16 s d v = .ok t := by
  simp [copy16, orRaise_next]

/-- A two-operand instruction answers the destination written and the flags replaced. -/
theorem binary8_next {f : Byte → Byte → Flags → Byte × Flags} {d : Loc8} {src : Src8} {s t : State} :
    binary8 f d src s = .next t ↔
      ∃ a b u, readLoc8 s d = .ok a ∧ readSrc8 s src = .ok b ∧ writeLoc8 s d (f a b s.flags).1 = .ok u ∧
        t = { u with flags := (f a b s.flags).2 } := by
  simp only [binary8, finish8, orRaise_next, Host.Outcome.next.injEq]
  constructor
  · rintro ⟨a, ha, b, hb, u, hu, rfl⟩; exact ⟨a, b, u, ha, hb, hu, rfl⟩
  · rintro ⟨a, b, u, ha, hb, hu, rfl⟩; exact ⟨a, ha, b, hb, u, hu, rfl⟩

theorem binary16_next {f : Word → Word → Flags → Word × Flags} {d : Loc16} {src : Src16} {s t : State} :
    binary16 f d src s = .next t ↔
      ∃ a b u, readLoc16 s d = .ok a ∧ readSrc16 s src = .ok b ∧ writeLoc16 s d (f a b s.flags).1 = .ok u ∧
        t = { u with flags := (f a b s.flags).2 } := by
  simp only [binary16, finish16, orRaise_next, Host.Outcome.next.injEq]
  constructor
  · rintro ⟨a, ha, b, hb, u, hu, rfl⟩; exact ⟨a, b, u, ha, hb, hu, rfl⟩
  · rintro ⟨a, b, u, ha, hb, hu, rfl⟩; exact ⟨a, ha, b, hb, u, hu, rfl⟩

/-- A one-operand instruction on a register always completes. -/
theorem unary8_reg (f : Byte → Flags → Byte × Flags) (d : Reg8) (s : State) :
    unary8 f (.reg d) s =
      .next { writeReg8 s d (f (readReg8 s d) s.flags).1 with flags := (f (readReg8 s d) s.flags).2 } := rfl

theorem unary16_reg (f : Word → Flags → Word × Flags) (d : Reg16) (s : State) :
    unary16 f (.reg d) s =
      .next { writeReg16 s d (f (readReg16 s d) s.flags).1 with flags := (f (readReg16 s d) s.flags).2 } := rfl

/-- What `push` can answer (R190). -/
theorem pushWord_next {v : Word} {s t : State} :
    pushWord v s = .next t ↔
      2 ≤ (readReg16 s .sp).toNat ∧ s.ap.toNat < s.cfg.nPages ∧
        t = writeReg16 { s with mem := writeBytes s.mem (phys s.ap (readReg16 s .sp - 2)) (wordBytes v) } .sp
              (readReg16 s .sp - 2) := by
  have hlt := (readReg16 s .sp).isLt
  by_cases h : (readReg16 s .sp).toNat < 2
  · simp only [pushWord, if_pos h, raiseError]
    constructor
    · intro h'; cases h'
    · rintro ⟨h', _⟩; omega
  · have hsub : (readReg16 s .sp - 2).toNat + 1 ≤ 0xFFFF := by
      rw [BitVec.toNat_sub]
      simp
      omega
    simp only [pushWord, if_neg h, orRaise_next]
    by_cases hp : s.ap.toNat < s.cfg.nPages
    · rw [memWrite16_ok hp hsub]
      simp only [Except.ok.injEq, exists_eq_left', Host.Outcome.next.injEq]
      constructor
      · rintro rfl; exact ⟨by omega, hp, rfl⟩
      · rintro ⟨_, _, rfl⟩; rfl
    · rw [memWrite16_error fun hc => hp hc.1]
      simp [hp]

/-- What `pop` can answer (R191). -/
theorem execPopReg16_next {d : Reg16} {s t : State} :
    execPopReg16 d s = .next t ↔
      s.ap.toNat < s.cfg.nPages ∧ (readReg16 s .sp).toNat + 1 ≤ 0xFFFF ∧
        t = writeReg16 (writeReg16 s .sp (readReg16 s .sp + 2)) d
              (wordOf (readPhys s.mem (phys s.ap (readReg16 s .sp))) (readPhys s.mem (phys s.ap (readReg16 s .sp) + 1))) := by
  simp only [execPopReg16, orRaise_next]
  by_cases h : s.ap.toNat < s.cfg.nPages ∧ (readReg16 s .sp).toNat + 1 ≤ 0xFFFF
  · rw [memRead16_ok h.1 h.2]
    simp only [Except.ok.injEq, exists_eq_left', Host.Outcome.next.injEq]
    constructor
    · rintro rfl; exact ⟨h.1, h.2, rfl⟩
    · rintro ⟨_, _, rfl⟩; rfl
  · rw [memRead16_error h]
    constructor
    · rintro ⟨v, hv, _⟩; cases hv
    · rintro ⟨h1, h2, _⟩; exact absurd ⟨h1, h2⟩ h

/-! ### The services (R195 to R199) -/

/-- What the scan of a string finds: the bytes before the first terminator, if there is one in reach. -/
theorem scanString_eq_some {m : Memory} {term : Byte} {a n : Nat} {bs : List Byte} :
    scanString m term a n = some bs ↔
      bs.length < n ∧ readPhys m (a + bs.length) = term ∧ (∀ j, j < bs.length → readPhys m (a + j) ≠ term) ∧
        bs = readBytes m a bs.length := by
  induction n generalizing a bs with
  | zero => simp [scanString]
  | succ n ih =>
    unfold scanString
    split
    · next h =>
      constructor
      · intro hbs
        obtain rfl : [] = bs := by simpa using hbs
        exact ⟨by simp, by simpa using h, by simp, rfl⟩
      · rintro ⟨_, _, h3, _⟩
        cases bs with
        | nil => rfl
        | cons b t => exact absurd (by simpa using h) (h3 0 (by simp))
    · next h =>
      rw [Option.map_eq_some_iff]
      constructor
      · rintro ⟨t, ht, rfl⟩
        obtain ⟨h1, h2, h3, h4⟩ := ih.mp ht
        refine ⟨by simpa using h1, by rw [List.length_cons, ← h2]; congr 1; omega, ?_, ?_⟩
        · intro j hj
          cases j with
          | zero => simpa using h
          | succ j =>
            have := h3 j (by simpa using hj)
            rwa [show a + (j + 1) = a + 1 + j by omega]
        · have : readBytes m a (t.length + 1) = readPhys m a :: readBytes m (a + 1) t.length := by
            simp [readBytes, List.range_succ_eq_map, Function.comp_def, Nat.add_assoc, Nat.add_comm 1]
          rw [List.length_cons, this, ← h4]
      · rintro ⟨h1, h2, h3, h4⟩
        cases bs with
        | nil => exact absurd (by simpa using h2) h
        | cons b t =>
          have hh : readBytes m a (t.length + 1) = readPhys m a :: readBytes m (a + 1) t.length := by
            simp [readBytes, List.range_succ_eq_map, Function.comp_def, Nat.add_assoc, Nat.add_comm 1]
          rw [List.length_cons, hh, List.cons.injEq] at h4
          refine ⟨t, ih.mpr ⟨by simpa using h1, ?_, fun j hj => ?_, h4.2⟩, by rw [h4.1]⟩
          · rw [← h2, List.length_cons]; congr 1; omega
          · have := h3 (j + 1) (by simpa using hj)
            rwa [show a + 1 + j = a + (j + 1) by omega]

/-- Where a string has no terminator in reach. -/
theorem scanString_eq_none {m : Memory} {term : Byte} {a n : Nat} :
    scanString m term a n = none ↔ ∀ j, j < n → readPhys m (a + j) ≠ term := by
  induction n generalizing a with
  | zero => simp [scanString]
  | succ n ih =>
    unfold scanString
    split
    · next h =>
      constructor
      · intro h'; cases h'
      · intro h'; exact absurd (by simpa using h) (h' 0 (by omega))
    · next h =>
      rw [Option.map_eq_none_iff, ih]
      constructor
      · intro h' j hj
        cases j with
        | zero => simpa using h
        | succ j => rw [show a + (j + 1) = a + 1 + j by omega]; exact h' j (by omega)
      · intro h' j hj
        rw [show a + 1 + j = a + (j + 1) by omega]
        exact h' (j + 1) (by omega)

theorem printService_next {s t : State} :
    printService s = .next t ↔
      (servicePage s).toNat < s.cfg.nPages ∧
      ∃ bytes, scanString s.mem s.cfg.services.terminator (phys (servicePage s) (serviceOffset s))
          (pageSize - (serviceOffset s).toNat) = some bytes ∧ t = emit s (.output bytes) := by
  unfold printService
  by_cases h : (servicePage s).toNat < s.cfg.nPages
  · rw [if_pos ((validPage_eq _ _).mpr h)]
    split
    · next bytes hb =>
      constructor
      · intro h'; cases h'; exact ⟨h, bytes, hb, rfl⟩
      · rintro ⟨_, bytes', hb', rfl⟩
        cases hb.symm.trans hb'; rfl
    · next hb =>
      constructor
      · intro h'; cases h'
      · rintro ⟨_, bytes', hb', rfl⟩
        cases hb.symm.trans hb'
  · rw [if_neg (by rwa [validPage_eq])]
    simp [raiseError, h]

theorem readLineService_next {s t : State} :
    readLineService s = .next t ↔
      (servicePage s).toNat < s.cfg.nPages ∧ (serviceOffset s).toNat + (drawLine s).1.length ≤ 0xFFFF ∧
        t = emit (storeLine (drawLine s).2 (drawLine s).1) (.inputTaken (drawLine s).1) := by
  unfold readLineService
  by_cases h : (servicePage s).toNat < s.cfg.nPages
  · rw [if_pos ((validPage_eq _ _).mpr h)]
    by_cases h2 : (serviceOffset s).toNat + (drawLine s).1.length ≤ 0xFFFF
    · simp only [if_pos h2, Host.Outcome.next.injEq]
      exact ⟨fun e => ⟨h, h2, e.symm⟩, fun e => e.2.2.symm⟩
    · simp [h2, raiseError]
  · rw [if_neg (by rwa [validPage_eq])]
    simp [raiseError, h]

end Sys2Proof.Machine
end

