-- ==== Sys2Proof/Laws/Commands.lean ====
section
/-! SUPPORT. The host's commands: where an address argument points, and what each shared operation of the memory and disk
commands answers. -/

namespace Sys2Proof.Machine

/-! ### Addresses (R41, R210) -/

@[simp] theorem locate_offset (s : State) (o : Word) : locate s (.offset o) = locate s (.full s.ap o) := rfl

theorem locate_ok {s : State} {p : Word} (o : Word) (h : p.toNat < s.cfg.nPages) :
    locate s (.full p o) = .ok (p, o) := by
  simp [locate, (validPage_eq s.cfg p).mpr h]

theorem locate_error {s : State} {p : Word} (o : Word) (h : ¬ p.toNat < s.cfg.nPages) :
    locate s (.full p o) = .error .outOfRange := by
  have : ¬ validPage s.cfg p = true := fun hv => h ((validPage_eq s.cfg p).mp hv)
  simp [locate, this]

/-! ### Bytes within a page (R212, R223) -/

theorem storeInPage_ok (s : State) (p : Word) {o : Word} {bytes : List Byte} (h : o.toNat + bytes.length ≤ pageSize) :
    storeInPage s p o bytes = .ok { s with mem := writeBytes s.mem (phys p o) bytes } := if_pos h

theorem storeInPage_error (s : State) (p : Word) {o : Word} {bytes : List Byte} (h : ¬ o.toNat + bytes.length ≤ pageSize) :
    storeInPage s p o bytes = .error .outOfRange := if_neg h

/-- What stands in the range just written. -/
theorem getElem?_writeBytes (m : Memory) (a : Nat) (bs : List Byte) {i : Nat} (h : i < bs.length) :
    bs[i]? = some (readPhys (writeBytes m a bs) (a + i)) := by
  rw [readPhys_writeBytes, if_pos (by omega), Nat.add_sub_cancel_left, List.getD_eq_getElem?_getD,
    List.getElem?_eq_getElem h]
  rfl

/-! ### Patterns (R213) -/

@[simp] theorem length_cycle (p : Pattern) (n : Nat) : (cycle p n).length = n := by simp [cycle]

theorem patternBytes_length_pos (p : Pattern) : 0 < (patternBytes p).length := by simp [patternBytes]

theorem getElem?_cycle (p : Pattern) {n i : Nat} (h : i < n) :
    (cycle p n)[i]? = (patternBytes p)[i % (patternBytes p).length]? := by
  have hm := Nat.mod_lt i (patternBytes_length_pos p)
  simp [cycle, h, List.getD_eq_getElem?_getD, List.getElem?_eq_getElem hm]

/-! ### Transfers (R52, R235, R237) -/

theorem transferOk_iff (c : Config) (p o : Word) (first count : Nat) :
    transferOk c p o first count = true ↔
      first + count ≤ c.sectorCount ∧ p.toNat < c.nPages ∧ phys p o + count * c.sectorSize ≤ c.memSize := by
  simp [transferOk, validPage_eq, and_assoc]

/-! ### Names (R16) -/

theorem lookupReg16_ok {c : Config} {n : Text} {r : Reg16} (h : regOfName c n = some (.reg16 r)) :
    lookupReg16 c n = .ok r := by
  simp [lookupReg16, h]

theorem lookupReg16_error {c : Config} {n : Text} (h : ∀ r, regOfName c n ≠ some (.reg16 r)) :
    lookupReg16 c n = .error (.unknownRegister n) := by
  unfold lookupReg16
  split
  · exact absurd ‹_› (h _)
  · rfl

theorem lookupByte_half_ok {c : Config} {n : Text} {r : Reg16} (h : regOfName c n = some (.reg16 r)) (k : Half) :
    lookupByte c (.half n k) = .ok (r, k) := by
  simp [lookupByte, h]

theorem lookupByte_half_error {c : Config} {n : Text} (h : ∀ r, regOfName c n ≠ some (.reg16 r)) (k : Half) :
    lookupByte c (.half n k) = .error (.unknownRegister n) := by
  unfold lookupByte
  simp only

theorem lookupByte_alias_ok {c : Config} {n : Text} {r : Reg8} (h : regOfName c n = some (.reg8 r)) :
    lookupByte c (.alias8 n) = .ok (r.parent, r.half) := by
  simp [lookupByte, h]

theorem lookupByte_alias_error {c : Config} {n : Text} (h : ∀ r, regOfName c n ≠ some (.reg8 r)) :
    lookupByte c (.alias8 n) = .error (.unknownRegister n) := by
  unfold lookupByte
  simp only

/-! ### Admission (R123) -/

/-- With well-formed tables EXEC admits the decoded form of every instruction as that instruction. -/
theorem admission_decodedOf {c : Config} (h : c.tablesWf) (i : Instr) : admission c (decodedOf i) = .ok i := by
  have hw := Instr.wellFormed_of_tablesWf h i
  simp only [Instr.wellFormed, partsOk, Bool.and_eq_true] at hw
  simp [admission, decodedOf, hw.1, hw.2]

end Sys2Proof.Machine
end

