-- ==== Sys2Proof/Laws/Exec.lean ====
section
/-! SUPPORT. What an instruction that answers a next state can have done, said once for all 67. -/

namespace Sys2Proof.Machine

/-- A flag of a flag record. -/
def Flags.get (f : Flags) (k : Flag) : Bool :=
  match k with
  | .of => f.of | .sf => f.sf | .zf => f.zf | .af => f.af | .pf => f.pf | .cf => f.cf

theorem readFlag_eq_get (s : State) (k : Flag) : readFlag s k = s.flags.get k := by cases k <;> rfl

/-- The flags `g` after an instruction of mnemonic `m` that found the flags `f` (R18, R133). -/
def FlagsAfter (m : Mnemonic) (f g : Flags) : Prop :=
  (∀ k, k ∉ m.flags → g.get k = f.get k) ∧ (m = .and ∨ m = .or ∨ m = .xor → g.of = false ∧ g.cf = false)

/-- What an instruction other than `push`, `pop` and `int` leaves: its first operand written, and its flags. -/
def WroteFirst (i : Instr) (s t : State) : Prop :=
  ∃ g, FlagsAfter i.mnemonic s.flags g ∧
    ((∃ d v rest, i.operands = .reg8 d :: rest ∧ t = { writeReg8 s d v with flags := g }) ∨
     (∃ d v rest, i.operands = .reg16 d :: rest ∧ t = { writeReg16 s d v with flags := g }) ∨
     (∃ m v rest, i.operands = .mem8 m :: rest ∧ s.ap.toNat < s.cfg.nPages ∧
        t = { s with mem := writePhys s.mem (phys s.ap m) v, flags := g }) ∨
     (∃ m v rest, i.operands = .mem16 m :: rest ∧ s.ap.toNat < s.cfg.nPages ∧ m.toNat + 1 ≤ 0xFFFF ∧
        t = { s with mem := writeBytes s.mem (phys s.ap m) (wordBytes v), flags := g }))

/-- What a completed `int` leaves: an event, and for the read-line service the line in memory (R197, R198, R199). -/
def ServiceDone (n : Byte) (s t : State) : Prop :=
  (n = s.cfg.services.printNo ∧ ∃ bytes, t = emit s (.output bytes)) ∨
  (n ≠ s.cfg.services.printNo ∧ n = s.cfg.services.readLineNo ∧ (servicePage s).toNat < s.cfg.nPages ∧
    (serviceOffset s).toNat + (drawLine s).1.length ≤ 0xFFFF ∧
    t = emit (storeLine (drawLine s).2 (drawLine s).1) (.inputTaken (drawLine s).1)) ∨
  (n ≠ s.cfg.services.printNo ∧ n ≠ s.cfg.services.readLineNo ∧ n = s.cfg.services.terminateNo ∧
    t = emit s .terminateRequest)

theorem flagsAfter_refl {m : Mnemonic} (f : Flags) (h : m ≠ .and ∧ m ≠ .or ∧ m ≠ .xor) : FlagsAfter m f f :=
  ⟨fun _ _ => rfl, fun h' => by rcases h' with h' | h' | h' <;> simp_all⟩

/-! ### Per shape of instruction -/

theorem wroteFirst_copy8 {i : Instr} {d : Loc8} {src : Src8} {s t : State} {rest : List Operand}
    (hi : i.operands = (match d with | .reg r => .reg8 r | .mem m => .mem8 m) :: rest)
    (hm : i.mnemonic = .mov) (h : copy8 d src s = .next t) : WroteFirst i s t := by
  obtain ⟨v, _, hw⟩ := copy8_next.mp h
  refine ⟨s.flags, by rw [hm]; exact flagsAfter_refl _ (by decide), ?_⟩
  rcases writeLoc8_ok_iff.mp hw with ⟨r, rfl, rfl⟩ | ⟨m, rfl, hp, rfl⟩
  · exact .inl ⟨r, v, rest, hi, by cases r <;> rfl⟩
  · exact .inr (.inr (.inl ⟨m, v, rest, hi, hp, rfl⟩))

theorem wroteFirst_copy16 {i : Instr} {d : Loc16} {src : Src16} {s t : State} {rest : List Operand}
    (hi : i.operands = (match d with | .reg r => .reg16 r | .mem m => .mem16 m) :: rest)
    (hm : i.mnemonic = .mov) (h : copy16 d src s = .next t) : WroteFirst i s t := by
  obtain ⟨v, _, hw⟩ := copy16_next.mp h
  refine ⟨s.flags, by rw [hm]; exact flagsAfter_refl _ (by decide), ?_⟩
  rcases writeLoc16_ok_iff.mp hw with ⟨r, rfl, rfl⟩ | ⟨m, rfl, hp, hm, rfl⟩
  · exact .inr (.inl ⟨r, v, rest, hi, by cases r <;> rfl⟩)
  · exact .inr (.inr (.inr ⟨m, v, rest, hi, hp, hm, rfl⟩))

theorem wroteFirst_binary8 {i : Instr} {f : Byte → Byte → Flags → Byte × Flags} {d : Loc8} {src : Src8} {s t : State}
    {rest : List Operand} (hi : i.operands = (match d with | .reg r => .reg8 r | .mem m => .mem8 m) :: rest)
    {m : Mnemonic} (hm : i.mnemonic = m)
    (hf : ∀ a b, FlagsAfter m s.flags (f a b s.flags).2) (h : binary8 f d src s = .next t) :
    WroteFirst i s t := by
  obtain ⟨a, b, u, _, _, hw, rfl⟩ := binary8_next.mp h
  refine ⟨_, hm ▸ hf a b, ?_⟩
  rcases writeLoc8_ok_iff.mp hw with ⟨r, rfl, rfl⟩ | ⟨m, rfl, hp, rfl⟩
  · exact .inl ⟨r, _, rest, hi, rfl⟩
  · exact .inr (.inr (.inl ⟨m, _, rest, hi, hp, rfl⟩))

theorem wroteFirst_binary16 {i : Instr} {f : Word → Word → Flags → Word × Flags} {d : Loc16} {src : Src16} {s t : State}
    {rest : List Operand} (hi : i.operands = (match d with | .reg r => .reg16 r | .mem m => .mem16 m) :: rest)
    {m : Mnemonic} (hm : i.mnemonic = m)
    (hf : ∀ a b, FlagsAfter m s.flags (f a b s.flags).2) (h : binary16 f d src s = .next t) :
    WroteFirst i s t := by
  obtain ⟨a, b, u, _, _, hw, rfl⟩ := binary16_next.mp h
  refine ⟨_, hm ▸ hf a b, ?_⟩
  rcases writeLoc16_ok_iff.mp hw with ⟨r, rfl, rfl⟩ | ⟨m, rfl, hp, hm, rfl⟩
  · exact .inr (.inl ⟨r, _, rest, hi, rfl⟩)
  · exact .inr (.inr (.inr ⟨m, _, rest, hi, hp, hm, rfl⟩))

theorem wroteFirst_unary8 {i : Instr} {f : Byte → Flags → Byte × Flags} {d : Reg8} {s t : State}
    (hi : i.operands = [.reg8 d]) {m : Mnemonic} (hm : i.mnemonic = m)
    (hf : ∀ a, FlagsAfter m s.flags (f a s.flags).2)
    (h : unary8 f (.reg d) s = .next t) : WroteFirst i s t := by
  rw [unary8_reg, Host.Outcome.next.injEq] at h
  exact ⟨_, hm ▸ hf _, .inl ⟨d, _, [], hi, h.symm⟩⟩

theorem wroteFirst_unary16 {i : Instr} {f : Word → Flags → Word × Flags} {d : Reg16} {s t : State}
    (hi : i.operands = [.reg16 d]) {m : Mnemonic} (hm : i.mnemonic = m)
    (hf : ∀ a, FlagsAfter m s.flags (f a s.flags).2)
    (h : unary16 f (.reg d) s = .next t) : WroteFirst i s t := by
  rw [unary16_reg, Host.Outcome.next.injEq] at h
  exact ⟨_, hm ▸ hf _, .inr (.inl ⟨d, _, [], hi, h.symm⟩)⟩

/-! ### The flags each ALU function leaves alone (R18) -/

theorem flagsAfter_all {m : Mnemonic} (h : m.flags = [.of, .sf, .zf, .af, .pf, .cf])
    (hm : m ≠ .and ∧ m ≠ .or ∧ m ≠ .xor) (f g : Flags) : FlagsAfter m f g :=
  ⟨fun k hk => by cases k <;> simp [h] at hk, fun h' => by rcases h' with h' | h' | h' <;> simp_all⟩

theorem flagsAfter_inc {w : Nat} (a : BitVec w) (f : Flags) : FlagsAfter .inc f (aluInc a f).2 :=
  ⟨fun k hk => by cases k <;> first | rfl | simp [Mnemonic.flags] at hk, by simp⟩

theorem flagsAfter_dec {w : Nat} (a : BitVec w) (f : Flags) : FlagsAfter .dec f (aluDec a f).2 :=
  ⟨fun k hk => by cases k <;> first | rfl | simp [Mnemonic.flags] at hk, by simp⟩

theorem flagsAfter_logic {w : Nat} {m : Mnemonic} (h : m = .and ∨ m = .or ∨ m = .xor) (r : BitVec w) (f : Flags) :
    FlagsAfter m f (logicFlags r f) := by
  refine ⟨fun k hk => ?_, fun _ => ⟨rfl, rfl⟩⟩
  rcases h with rfl | rfl | rfl <;> cases k <;> first | rfl | simp [Mnemonic.flags] at hk

theorem flagsAfter_shift {w : Nat} {m : Mnemonic} (h : m = .shl ∨ m = .shr ∨ m = .rol ∨ m = .ror) (a r : BitVec w)
    (c : Bool) (f : Flags) : FlagsAfter m f (shiftFlags a r c f) := by
  refine ⟨fun k hk => ?_, fun h' => ?_⟩
  · rcases h with rfl | rfl | rfl | rfl <;> cases k <;> first | rfl | simp [Mnemonic.flags] at hk
  · rcases h with rfl | rfl | rfl | rfl <;> simp at h'

/-! ### All instructions -/

/-- Everything an instruction that answers a next state can have done. -/
theorem exec_next {i : Instr} {s t : State} (h : exec i s = .next t) :
    (i.mnemonic ≠ .push ∧ i.mnemonic ≠ .pop ∧ i.mnemonic ≠ .int ∧ WroteFirst i s t) ∨
    (∃ r, i = .pushReg16 r ∧ pushWord (readReg16 s r) s = .next t) ∨
    (∃ d, i = .popReg16 d ∧ execPopReg16 d s = .next t) ∨
    (∃ n, i = .intImm8 n ∧ ServiceDone n s t) := by
  have copied {m : Mnemonic} (hm : i.mnemonic = m) (hw : WroteFirst i s t)
      (hn : m ≠ .push ∧ m ≠ .pop ∧ m ≠ .int := by decide) :
      (i.mnemonic ≠ .push ∧ i.mnemonic ≠ .pop ∧ i.mnemonic ≠ .int ∧ WroteFirst i s t) ∨
      (∃ r, i = .pushReg16 r ∧ pushWord (readReg16 s r) s = .next t) ∨
      (∃ d, i = .popReg16 d ∧ execPopReg16 d s = .next t) ∨ (∃ n, i = .intImm8 n ∧ ServiceDone n s t) :=
    .inl ⟨hm ▸ hn.1, hm ▸ hn.2.1, hm ▸ hn.2.2, hw⟩
  cases i with
  | pushReg16 r => exact .inr (.inl ⟨r, rfl, h⟩)
  | popReg16 d => exact .inr (.inr (.inl ⟨d, rfl, h⟩))
  | intImm8 n =>
    refine .inr (.inr (.inr ⟨n, rfl, ?_⟩))
    replace h : execIntImm8 n s = .next t := h
    unfold execIntImm8 at h
    split at h
    · obtain ⟨_, b, _, rfl⟩ := printService_next.mp h
      exact .inl ⟨‹_›, b, rfl⟩
    split at h
    · obtain ⟨h1, h2, rfl⟩ := readLineService_next.mp h
      exact .inr (.inl ⟨‹_›, ‹_›, h1, h2, rfl⟩)
    split at h
    · cases h; exact .inr (.inr ⟨‹_›, ‹_›, ‹_›, rfl⟩)
    · cases h
  | movMem8Reg8 m r => exact copied (m := .mov) rfl (wroteFirst_copy8 (d := .mem m) (src := .loc (.reg r)) rfl rfl h)
  | movMem16Reg16 m r =>
    exact copied (m := .mov) rfl (wroteFirst_copy16 (d := .mem m) (src := .loc (.reg r)) rfl rfl h)
  | movReg8Mem8 d m => exact copied (m := .mov) rfl (wroteFirst_copy8 (d := .reg d) (src := .loc (.mem m)) rfl rfl h)
  | movReg16Mem16 d m =>
    exact copied (m := .mov) rfl (wroteFirst_copy16 (d := .reg d) (src := .loc (.mem m)) rfl rfl h)
  | movReg8Reg8 d r => exact copied (m := .mov) rfl (wroteFirst_copy8 (d := .reg d) (src := .loc (.reg r)) rfl rfl h)
  | movReg16Reg16 d r =>
    exact copied (m := .mov) rfl (wroteFirst_copy16 (d := .reg d) (src := .loc (.reg r)) rfl rfl h)
  | movReg8Imm8 d v => exact copied (m := .mov) rfl (wroteFirst_copy8 (d := .reg d) (src := .imm v) rfl rfl h)
  | movReg16Imm16 d v => exact copied (m := .mov) rfl (wroteFirst_copy16 (d := .reg d) (src := .imm v) rfl rfl h)
  | addMem8Reg8 m r =>
    exact copied (m := .add) rfl (wroteFirst_binary8 (m := .add) (f := aluAdd) (d := .mem m) (src := .loc (.reg r)) rfl rfl
      (fun _ _ => flagsAfter_all rfl (by decide) _ _) h)
  | addMem16Reg16 m r =>
    exact copied (m := .add) rfl (wroteFirst_binary16 (m := .add) (f := aluAdd) (d := .mem m) (src := .loc (.reg r)) rfl rfl
      (fun _ _ => flagsAfter_all rfl (by decide) _ _) h)
  | addReg8Mem8 d m =>
    exact copied (m := .add) rfl (wroteFirst_binary8 (m := .add) (f := aluAdd) (d := .reg d) (src := .loc (.mem m)) rfl rfl
      (fun _ _ => flagsAfter_all rfl (by decide) _ _) h)
  | addReg16Mem16 d m =>
    exact copied (m := .add) rfl (wroteFirst_binary16 (m := .add) (f := aluAdd) (d := .reg d) (src := .loc (.mem m)) rfl rfl
      (fun _ _ => flagsAfter_all rfl (by decide) _ _) h)
  | addReg8Reg8 d r =>
    exact copied (m := .add) rfl (wroteFirst_binary8 (m := .add) (f := aluAdd) (d := .reg d) (src := .loc (.reg r)) rfl rfl
      (fun _ _ => flagsAfter_all rfl (by decide) _ _) h)
  | addReg16Reg16 d r =>
    exact copied (m := .add) rfl (wroteFirst_binary16 (m := .add) (f := aluAdd) (d := .reg d) (src := .loc (.reg r)) rfl rfl
      (fun _ _ => flagsAfter_all rfl (by decide) _ _) h)
  | addReg8Imm8 d v =>
    exact copied (m := .add) rfl (wroteFirst_binary8 (m := .add) (f := aluAdd) (d := .reg d) (src := .imm v) rfl rfl
      (fun _ _ => flagsAfter_all rfl (by decide) _ _) h)
  | addReg16Imm16 d v =>
    exact copied (m := .add) rfl (wroteFirst_binary16 (m := .add) (f := aluAdd) (d := .reg d) (src := .imm v) rfl rfl
      (fun _ _ => flagsAfter_all rfl (by decide) _ _) h)
  | subMem8Reg8 m r =>
    exact copied (m := .sub) rfl (wroteFirst_binary8 (m := .sub) (f := aluSub) (d := .mem m) (src := .loc (.reg r)) rfl rfl
      (fun _ _ => flagsAfter_all rfl (by decide) _ _) h)
  | subMem16Reg16 m r =>
    exact copied (m := .sub) rfl (wroteFirst_binary16 (m := .sub) (f := aluSub) (d := .mem m) (src := .loc (.reg r)) rfl rfl
      (fun _ _ => flagsAfter_all rfl (by decide) _ _) h)
  | subReg8Mem8 d m =>
    exact copied (m := .sub) rfl (wroteFirst_binary8 (m := .sub) (f := aluSub) (d := .reg d) (src := .loc (.mem m)) rfl rfl
      (fun _ _ => flagsAfter_all rfl (by decide) _ _) h)
  | subReg16Mem16 d m =>
    exact copied (m := .sub) rfl (wroteFirst_binary16 (m := .sub) (f := aluSub) (d := .reg d) (src := .loc (.mem m)) rfl rfl
      (fun _ _ => flagsAfter_all rfl (by decide) _ _) h)
  | subReg8Reg8 d r =>
    exact copied (m := .sub) rfl (wroteFirst_binary8 (m := .sub) (f := aluSub) (d := .reg d) (src := .loc (.reg r)) rfl rfl
      (fun _ _ => flagsAfter_all rfl (by decide) _ _) h)
  | subReg16Reg16 d r =>
    exact copied (m := .sub) rfl (wroteFirst_binary16 (m := .sub) (f := aluSub) (d := .reg d) (src := .loc (.reg r)) rfl rfl
      (fun _ _ => flagsAfter_all rfl (by decide) _ _) h)
  | subReg8Imm8 d v =>
    exact copied (m := .sub) rfl (wroteFirst_binary8 (m := .sub) (f := aluSub) (d := .reg d) (src := .imm v) rfl rfl
      (fun _ _ => flagsAfter_all rfl (by decide) _ _) h)
  | subReg16Imm16 d v =>
    exact copied (m := .sub) rfl (wroteFirst_binary16 (m := .sub) (f := aluSub) (d := .reg d) (src := .imm v) rfl rfl
      (fun _ _ => flagsAfter_all rfl (by decide) _ _) h)
  | andMem8Reg8 m r =>
    exact copied (m := .and) rfl (wroteFirst_binary8 (m := .and) (f := aluAnd) (d := .mem m) (src := .loc (.reg r)) rfl rfl
      (fun _ _ => flagsAfter_logic (by decide) _ _) h)
  | andMem16Reg16 m r =>
    exact copied (m := .and) rfl (wroteFirst_binary16 (m := .and) (f := aluAnd) (d := .mem m) (src := .loc (.reg r)) rfl rfl
      (fun _ _ => flagsAfter_logic (by decide) _ _) h)
  | andReg8Mem8 d m =>
    exact copied (m := .and) rfl (wroteFirst_binary8 (m := .and) (f := aluAnd) (d := .reg d) (src := .loc (.mem m)) rfl rfl
      (fun _ _ => flagsAfter_logic (by decide) _ _) h)
  | andReg16Mem16 d m =>
    exact copied (m := .and) rfl (wroteFirst_binary16 (m := .and) (f := aluAnd) (d := .reg d) (src := .loc (.mem m)) rfl rfl
      (fun _ _ => flagsAfter_logic (by decide) _ _) h)
  | andReg8Reg8 d r =>
    exact copied (m := .and) rfl (wroteFirst_binary8 (m := .and) (f := aluAnd) (d := .reg d) (src := .loc (.reg r)) rfl rfl
      (fun _ _ => flagsAfter_logic (by decide) _ _) h)
  | andReg16Reg16 d r =>
    exact copied (m := .and) rfl (wroteFirst_binary16 (m := .and) (f := aluAnd) (d := .reg d) (src := .loc (.reg r)) rfl rfl
      (fun _ _ => flagsAfter_logic (by decide) _ _) h)
  | andReg8Imm8 d v =>
    exact copied (m := .and) rfl (wroteFirst_binary8 (m := .and) (f := aluAnd) (d := .reg d) (src := .imm v) rfl rfl
      (fun _ _ => flagsAfter_logic (by decide) _ _) h)
  | andReg16Imm16 d v =>
    exact copied (m := .and) rfl (wroteFirst_binary16 (m := .and) (f := aluAnd) (d := .reg d) (src := .imm v) rfl rfl
      (fun _ _ => flagsAfter_logic (by decide) _ _) h)
  | orMem8Reg8 m r =>
    exact copied (m := .or) rfl (wroteFirst_binary8 (m := .or) (f := aluOr) (d := .mem m) (src := .loc (.reg r)) rfl rfl
      (fun _ _ => flagsAfter_logic (by decide) _ _) h)
  | orMem16Reg16 m r =>
    exact copied (m := .or) rfl (wroteFirst_binary16 (m := .or) (f := aluOr) (d := .mem m) (src := .loc (.reg r)) rfl rfl
      (fun _ _ => flagsAfter_logic (by decide) _ _) h)
  | orReg8Mem8 d m =>
    exact copied (m := .or) rfl (wroteFirst_binary8 (m := .or) (f := aluOr) (d := .reg d) (src := .loc (.mem m)) rfl rfl
      (fun _ _ => flagsAfter_logic (by decide) _ _) h)
  | orReg16Mem16 d m =>
    exact copied (m := .or) rfl (wroteFirst_binary16 (m := .or) (f := aluOr) (d := .reg d) (src := .loc (.mem m)) rfl rfl
      (fun _ _ => flagsAfter_logic (by decide) _ _) h)
  | orReg8Reg8 d r =>
    exact copied (m := .or) rfl (wroteFirst_binary8 (m := .or) (f := aluOr) (d := .reg d) (src := .loc (.reg r)) rfl rfl
      (fun _ _ => flagsAfter_logic (by decide) _ _) h)
  | orReg16Reg16 d r =>
    exact copied (m := .or) rfl (wroteFirst_binary16 (m := .or) (f := aluOr) (d := .reg d) (src := .loc (.reg r)) rfl rfl
      (fun _ _ => flagsAfter_logic (by decide) _ _) h)
  | orReg8Imm8 d v =>
    exact copied (m := .or) rfl (wroteFirst_binary8 (m := .or) (f := aluOr) (d := .reg d) (src := .imm v) rfl rfl
      (fun _ _ => flagsAfter_logic (by decide) _ _) h)
  | orReg16Imm16 d v =>
    exact copied (m := .or) rfl (wroteFirst_binary16 (m := .or) (f := aluOr) (d := .reg d) (src := .imm v) rfl rfl
      (fun _ _ => flagsAfter_logic (by decide) _ _) h)
  | xorMem8Reg8 m r =>
    exact copied (m := .xor) rfl (wroteFirst_binary8 (m := .xor) (f := aluXor) (d := .mem m) (src := .loc (.reg r)) rfl rfl
      (fun _ _ => flagsAfter_logic (by decide) _ _) h)
  | xorMem16Reg16 m r =>
    exact copied (m := .xor) rfl (wroteFirst_binary16 (m := .xor) (f := aluXor) (d := .mem m) (src := .loc (.reg r)) rfl rfl
      (fun _ _ => flagsAfter_logic (by decide) _ _) h)
  | xorReg8Mem8 d m =>
    exact copied (m := .xor) rfl (wroteFirst_binary8 (m := .xor) (f := aluXor) (d := .reg d) (src := .loc (.mem m)) rfl rfl
      (fun _ _ => flagsAfter_logic (by decide) _ _) h)
  | xorReg16Mem16 d m =>
    exact copied (m := .xor) rfl (wroteFirst_binary16 (m := .xor) (f := aluXor) (d := .reg d) (src := .loc (.mem m)) rfl rfl
      (fun _ _ => flagsAfter_logic (by decide) _ _) h)
  | xorReg8Reg8 d r =>
    exact copied (m := .xor) rfl (wroteFirst_binary8 (m := .xor) (f := aluXor) (d := .reg d) (src := .loc (.reg r)) rfl rfl
      (fun _ _ => flagsAfter_logic (by decide) _ _) h)
  | xorReg16Reg16 d r =>
    exact copied (m := .xor) rfl (wroteFirst_binary16 (m := .xor) (f := aluXor) (d := .reg d) (src := .loc (.reg r)) rfl rfl
      (fun _ _ => flagsAfter_logic (by decide) _ _) h)
  | xorReg8Imm8 d v =>
    exact copied (m := .xor) rfl (wroteFirst_binary8 (m := .xor) (f := aluXor) (d := .reg d) (src := .imm v) rfl rfl
      (fun _ _ => flagsAfter_logic (by decide) _ _) h)
  | xorReg16Imm16 d v =>
    exact copied (m := .xor) rfl (wroteFirst_binary16 (m := .xor) (f := aluXor) (d := .reg d) (src := .imm v) rfl rfl
      (fun _ _ => flagsAfter_logic (by decide) _ _) h)
  | notReg8 d =>
    exact copied (m := .not) rfl (wroteFirst_unary8 (m := .not) (f := aluNot) rfl rfl
      (fun _ => flagsAfter_refl _ (by decide)) h)
  | notReg16 d =>
    exact copied (m := .not) rfl (wroteFirst_unary16 (m := .not) (f := aluNot) rfl rfl
      (fun _ => flagsAfter_refl _ (by decide)) h)
  | negReg8 d =>
    exact copied (m := .neg) rfl (wroteFirst_unary8 (m := .neg) (f := aluNeg) rfl rfl
      (fun _ => flagsAfter_all rfl (by decide) _ _) h)
  | negReg16 d =>
    exact copied (m := .neg) rfl (wroteFirst_unary16 (m := .neg) (f := aluNeg) rfl rfl
      (fun _ => flagsAfter_all rfl (by decide) _ _) h)
  | incReg8 d =>
    exact copied (m := .inc) rfl (wroteFirst_unary8 (m := .inc) (f := aluInc) rfl rfl (fun _ => flagsAfter_inc _ _) h)
  | incReg16 d =>
    exact copied (m := .inc) rfl (wroteFirst_unary16 (m := .inc) (f := aluInc) rfl rfl
      (fun _ => flagsAfter_inc _ _) h)
  | decReg8 d =>
    exact copied (m := .dec) rfl (wroteFirst_unary8 (m := .dec) (f := aluDec) rfl rfl (fun _ => flagsAfter_dec _ _) h)
  | decReg16 d =>
    exact copied (m := .dec) rfl (wroteFirst_unary16 (m := .dec) (f := aluDec) rfl rfl
      (fun _ => flagsAfter_dec _ _) h)
  | shlReg8 d =>
    exact copied (m := .shl) rfl (wroteFirst_unary8 (m := .shl) (f := aluShl) rfl rfl
      (fun _ => flagsAfter_shift (by decide) _ _ _ _) h)
  | shlReg16 d =>
    exact copied (m := .shl) rfl (wroteFirst_unary16 (m := .shl) (f := aluShl) rfl rfl
      (fun _ => flagsAfter_shift (by decide) _ _ _ _) h)
  | shrReg8 d =>
    exact copied (m := .shr) rfl (wroteFirst_unary8 (m := .shr) (f := aluShr) rfl rfl
      (fun _ => flagsAfter_shift (by decide) _ _ _ _) h)
  | shrReg16 d =>
    exact copied (m := .shr) rfl (wroteFirst_unary16 (m := .shr) (f := aluShr) rfl rfl
      (fun _ => flagsAfter_shift (by decide) _ _ _ _) h)
  | rolReg8 d =>
    exact copied (m := .rol) rfl (wroteFirst_unary8 (m := .rol) (f := aluRol) rfl rfl
      (fun _ => flagsAfter_shift (by decide) _ _ _ _) h)
  | rolReg16 d =>
    exact copied (m := .rol) rfl (wroteFirst_unary16 (m := .rol) (f := aluRol) rfl rfl
      (fun _ => flagsAfter_shift (by decide) _ _ _ _) h)
  | rorReg8 d =>
    exact copied (m := .ror) rfl (wroteFirst_unary8 (m := .ror) (f := aluRor) rfl rfl
      (fun _ => flagsAfter_shift (by decide) _ _ _ _) h)
  | rorReg16 d =>
    exact copied (m := .ror) rfl (wroteFirst_unary16 (m := .ror) (f := aluRor) rfl rfl
      (fun _ => flagsAfter_shift (by decide) _ _ _ _) h)

end Sys2Proof.Machine
end

