-- ==== Sys2Proof/Laws/PerInstr.lean ====
section
/-! SUPPORT. Facts about every instruction of the syntax, one lemma per constructor. -/

/-- With any opcode table: the encoding of an instruction is as long as its table entry says (R76), the entry has the
instruction's own key, and its opcode byte stands first (R70). -/
def Sys2Proof.Laws.EncodedLength.Statement (i : Sys2Proof.Instr) : Prop :=
  ∀ c : Sys2Proof.Config, Sys2Proof.OpTable.wf c.opTable →
    ∃ e ∈ c.opTable, Sys2Proof.entryOfKey c i.mnemonic i.signature = some e ∧
      (Sys2Proof.encode c i).length = Sys2Proof.entryLength e ∧ (Sys2Proof.encode c i).head? = some e.opcode

/-- An operand's field is as long as its shape says (R73). -/
theorem Sys2Proof.encodeOperand_length (c : Sys2Proof.Config) (op : Sys2Proof.Operand) :
    (Sys2Proof.encodeOperand c op).length = op.shape.bytes := by
  cases op <;> rfl

/-- The one argument behind every constructor's lemma. -/
theorem Sys2Proof.encode_entry (i : Sys2Proof.Instr) : Sys2Proof.Laws.EncodedLength.Statement i := by
  intro c h
  obtain ⟨e, he, hk, -, hs⟩ := Sys2Proof.Instr.entry h i
  have henc : Sys2Proof.encode c i = Sys2Proof.encodeParts c e i.operands := by rw [Sys2Proof.encode, hk]
  refine ⟨e, he, hk, ?_, by rw [henc]; rfl⟩
  simp only [henc, Sys2Proof.encodeParts, Sys2Proof.entryLength, hs, List.length_cons, List.length_flatMap,
    Sys2Proof.encodeOperand_length, Sys2Proof.Instr.signature, List.map_map, Function.comp_def]
  omega

theorem Sys2Proof.Laws.EncodedLength.movMem8Reg8 (m : Sys2Proof.Word) (r : Sys2Proof.Reg8) :
    Sys2Proof.Laws.EncodedLength.Statement (.movMem8Reg8 m r) :=
  Sys2Proof.encode_entry _

theorem Sys2Proof.Laws.EncodedLength.movMem16Reg16 (m : Sys2Proof.Word) (r : Sys2Proof.Reg16) :
    Sys2Proof.Laws.EncodedLength.Statement (.movMem16Reg16 m r) :=
  Sys2Proof.encode_entry _

theorem Sys2Proof.Laws.EncodedLength.movReg8Mem8 (r : Sys2Proof.Reg8) (m : Sys2Proof.Word) :
    Sys2Proof.Laws.EncodedLength.Statement (.movReg8Mem8 r m) :=
  Sys2Proof.encode_entry _

theorem Sys2Proof.Laws.EncodedLength.movReg16Mem16 (r : Sys2Proof.Reg16) (m : Sys2Proof.Word) :
    Sys2Proof.Laws.EncodedLength.Statement (.movReg16Mem16 r m) :=
  Sys2Proof.encode_entry _

theorem Sys2Proof.Laws.EncodedLength.movReg8Reg8 (d : Sys2Proof.Reg8) (r : Sys2Proof.Reg8) :
    Sys2Proof.Laws.EncodedLength.Statement (.movReg8Reg8 d r) :=
  Sys2Proof.encode_entry _

theorem Sys2Proof.Laws.EncodedLength.movReg16Reg16 (d : Sys2Proof.Reg16) (r : Sys2Proof.Reg16) :
    Sys2Proof.Laws.EncodedLength.Statement (.movReg16Reg16 d r) :=
  Sys2Proof.encode_entry _

theorem Sys2Proof.Laws.EncodedLength.movReg8Imm8 (d : Sys2Proof.Reg8) (v : Sys2Proof.Byte) :
    Sys2Proof.Laws.EncodedLength.Statement (.movReg8Imm8 d v) :=
  Sys2Proof.encode_entry _

theorem Sys2Proof.Laws.EncodedLength.movReg16Imm16 (d : Sys2Proof.Reg16) (v : Sys2Proof.Word) :
    Sys2Proof.Laws.EncodedLength.Statement (.movReg16Imm16 d v) :=
  Sys2Proof.encode_entry _

theorem Sys2Proof.Laws.EncodedLength.addMem8Reg8 (m : Sys2Proof.Word) (r : Sys2Proof.Reg8) :
    Sys2Proof.Laws.EncodedLength.Statement (.addMem8Reg8 m r) :=
  Sys2Proof.encode_entry _

theorem Sys2Proof.Laws.EncodedLength.addMem16Reg16 (m : Sys2Proof.Word) (r : Sys2Proof.Reg16) :
    Sys2Proof.Laws.EncodedLength.Statement (.addMem16Reg16 m r) :=
  Sys2Proof.encode_entry _

theorem Sys2Proof.Laws.EncodedLength.addReg8Mem8 (r : Sys2Proof.Reg8) (m : Sys2Proof.Word) :
    Sys2Proof.Laws.EncodedLength.Statement (.addReg8Mem8 r m) :=
  Sys2Proof.encode_entry _

theorem Sys2Proof.Laws.EncodedLength.addReg16Mem16 (r : Sys2Proof.Reg16) (m : Sys2Proof.Word) :
    Sys2Proof.Laws.EncodedLength.Statement (.addReg16Mem16 r m) :=
  Sys2Proof.encode_entry _

theorem Sys2Proof.Laws.EncodedLength.addReg8Reg8 (d : Sys2Proof.Reg8) (r : Sys2Proof.Reg8) :
    Sys2Proof.Laws.EncodedLength.Statement (.addReg8Reg8 d r) :=
  Sys2Proof.encode_entry _

theorem Sys2Proof.Laws.EncodedLength.addReg16Reg16 (d : Sys2Proof.Reg16) (r : Sys2Proof.Reg16) :
    Sys2Proof.Laws.EncodedLength.Statement (.addReg16Reg16 d r) :=
  Sys2Proof.encode_entry _

theorem Sys2Proof.Laws.EncodedLength.addReg8Imm8 (d : Sys2Proof.Reg8) (v : Sys2Proof.Byte) :
    Sys2Proof.Laws.EncodedLength.Statement (.addReg8Imm8 d v) :=
  Sys2Proof.encode_entry _

theorem Sys2Proof.Laws.EncodedLength.addReg16Imm16 (d : Sys2Proof.Reg16) (v : Sys2Proof.Word) :
    Sys2Proof.Laws.EncodedLength.Statement (.addReg16Imm16 d v) :=
  Sys2Proof.encode_entry _

theorem Sys2Proof.Laws.EncodedLength.subMem8Reg8 (m : Sys2Proof.Word) (r : Sys2Proof.Reg8) :
    Sys2Proof.Laws.EncodedLength.Statement (.subMem8Reg8 m r) :=
  Sys2Proof.encode_entry _

theorem Sys2Proof.Laws.EncodedLength.subMem16Reg16 (m : Sys2Proof.Word) (r : Sys2Proof.Reg16) :
    Sys2Proof.Laws.EncodedLength.Statement (.subMem16Reg16 m r) :=
  Sys2Proof.encode_entry _

theorem Sys2Proof.Laws.EncodedLength.subReg8Mem8 (r : Sys2Proof.Reg8) (m : Sys2Proof.Word) :
    Sys2Proof.Laws.EncodedLength.Statement (.subReg8Mem8 r m) :=
  Sys2Proof.encode_entry _

theorem Sys2Proof.Laws.EncodedLength.subReg16Mem16 (r : Sys2Proof.Reg16) (m : Sys2Proof.Word) :
    Sys2Proof.Laws.EncodedLength.Statement (.subReg16Mem16 r m) :=
  Sys2Proof.encode_entry _

theorem Sys2Proof.Laws.EncodedLength.subReg8Reg8 (d : Sys2Proof.Reg8) (r : Sys2Proof.Reg8) :
    Sys2Proof.Laws.EncodedLength.Statement (.subReg8Reg8 d r) :=
  Sys2Proof.encode_entry _

theorem Sys2Proof.Laws.EncodedLength.subReg16Reg16 (d : Sys2Proof.Reg16) (r : Sys2Proof.Reg16) :
    Sys2Proof.Laws.EncodedLength.Statement (.subReg16Reg16 d r) :=
  Sys2Proof.encode_entry _

theorem Sys2Proof.Laws.EncodedLength.subReg8Imm8 (d : Sys2Proof.Reg8) (v : Sys2Proof.Byte) :
    Sys2Proof.Laws.EncodedLength.Statement (.subReg8Imm8 d v) :=
  Sys2Proof.encode_entry _

theorem Sys2Proof.Laws.EncodedLength.subReg16Imm16 (d : Sys2Proof.Reg16) (v : Sys2Proof.Word) :
    Sys2Proof.Laws.EncodedLength.Statement (.subReg16Imm16 d v) :=
  Sys2Proof.encode_entry _

theorem Sys2Proof.Laws.EncodedLength.andMem8Reg8 (m : Sys2Proof.Word) (r : Sys2Proof.Reg8) :
    Sys2Proof.Laws.EncodedLength.Statement (.andMem8Reg8 m r) :=
  Sys2Proof.encode_entry _

theorem Sys2Proof.Laws.EncodedLength.andMem16Reg16 (m : Sys2Proof.Word) (r : Sys2Proof.Reg16) :
    Sys2Proof.Laws.EncodedLength.Statement (.andMem16Reg16 m r) :=
  Sys2Proof.encode_entry _

theorem Sys2Proof.Laws.EncodedLength.andReg8Mem8 (r : Sys2Proof.Reg8) (m : Sys2Proof.Word) :
    Sys2Proof.Laws.EncodedLength.Statement (.andReg8Mem8 r m) :=
  Sys2Proof.encode_entry _

theorem Sys2Proof.Laws.EncodedLength.andReg16Mem16 (r : Sys2Proof.Reg16) (m : Sys2Proof.Word) :
    Sys2Proof.Laws.EncodedLength.Statement (.andReg16Mem16 r m) :=
  Sys2Proof.encode_entry _

theorem Sys2Proof.Laws.EncodedLength.andReg8Reg8 (d : Sys2Proof.Reg8) (r : Sys2Proof.Reg8) :
    Sys2Proof.Laws.EncodedLength.Statement (.andReg8Reg8 d r) :=
  Sys2Proof.encode_entry _

theorem Sys2Proof.Laws.EncodedLength.andReg16Reg16 (d : Sys2Proof.Reg16) (r : Sys2Proof.Reg16) :
    Sys2Proof.Laws.EncodedLength.Statement (.andReg16Reg16 d r) :=
  Sys2Proof.encode_entry _

theorem Sys2Proof.Laws.EncodedLength.andReg8Imm8 (d : Sys2Proof.Reg8) (v : Sys2Proof.Byte) :
    Sys2Proof.Laws.EncodedLength.Statement (.andReg8Imm8 d v) :=
  Sys2Proof.encode_entry _

theorem Sys2Proof.Laws.EncodedLength.andReg16Imm16 (d : Sys2Proof.Reg16) (v : Sys2Proof.Word) :
    Sys2Proof.Laws.EncodedLength.Statement (.andReg16Imm16 d v) :=
  Sys2Proof.encode_entry _

theorem Sys2Proof.Laws.EncodedLength.orMem8Reg8 (m : Sys2Proof.Word) (r : Sys2Proof.Reg8) :
    Sys2Proof.Laws.EncodedLength.Statement (.orMem8Reg8 m r) :=
  Sys2Proof.encode_entry _

theorem Sys2Proof.Laws.EncodedLength.orMem16Reg16 (m : Sys2Proof.Word) (r : Sys2Proof.Reg16) :
    Sys2Proof.Laws.EncodedLength.Statement (.orMem16Reg16 m r) :=
  Sys2Proof.encode_entry _

theorem Sys2Proof.Laws.EncodedLength.orReg8Mem8 (r : Sys2Proof.Reg8) (m : Sys2Proof.Word) :
    Sys2Proof.Laws.EncodedLength.Statement (.orReg8Mem8 r m) :=
  Sys2Proof.encode_entry _

theorem Sys2Proof.Laws.EncodedLength.orReg16Mem16 (r : Sys2Proof.Reg16) (m : Sys2Proof.Word) :
    Sys2Proof.Laws.EncodedLength.Statement (.orReg16Mem16 r m) :=
  Sys2Proof.encode_entry _

theorem Sys2Proof.Laws.EncodedLength.orReg8Reg8 (d : Sys2Proof.Reg8) (r : Sys2Proof.Reg8) :
    Sys2Proof.Laws.EncodedLength.Statement (.orReg8Reg8 d r) :=
  Sys2Proof.encode_entry _

theorem Sys2Proof.Laws.EncodedLength.orReg16Reg16 (d : Sys2Proof.Reg16) (r : Sys2Proof.Reg16) :
    Sys2Proof.Laws.EncodedLength.Statement (.orReg16Reg16 d r) :=
  Sys2Proof.encode_entry _

theorem Sys2Proof.Laws.EncodedLength.orReg8Imm8 (d : Sys2Proof.Reg8) (v : Sys2Proof.Byte) :
    Sys2Proof.Laws.EncodedLength.Statement (.orReg8Imm8 d v) :=
  Sys2Proof.encode_entry _

theorem Sys2Proof.Laws.EncodedLength.orReg16Imm16 (d : Sys2Proof.Reg16) (v : Sys2Proof.Word) :
    Sys2Proof.Laws.EncodedLength.Statement (.orReg16Imm16 d v) :=
  Sys2Proof.encode_entry _

theorem Sys2Proof.Laws.EncodedLength.xorMem8Reg8 (m : Sys2Proof.Word) (r : Sys2Proof.Reg8) :
    Sys2Proof.Laws.EncodedLength.Statement (.xorMem8Reg8 m r) :=
  Sys2Proof.encode_entry _

theorem Sys2Proof.Laws.EncodedLength.xorMem16Reg16 (m : Sys2Proof.Word) (r : Sys2Proof.Reg16) :
    Sys2Proof.Laws.EncodedLength.Statement (.xorMem16Reg16 m r) :=
  Sys2Proof.encode_entry _

theorem Sys2Proof.Laws.EncodedLength.xorReg8Mem8 (r : Sys2Proof.Reg8) (m : Sys2Proof.Word) :
    Sys2Proof.Laws.EncodedLength.Statement (.xorReg8Mem8 r m) :=
  Sys2Proof.encode_entry _

theorem Sys2Proof.Laws.EncodedLength.xorReg16Mem16 (r : Sys2Proof.Reg16) (m : Sys2Proof.Word) :
    Sys2Proof.Laws.EncodedLength.Statement (.xorReg16Mem16 r m) :=
  Sys2Proof.encode_entry _

theorem Sys2Proof.Laws.EncodedLength.xorReg8Reg8 (d : Sys2Proof.Reg8) (r : Sys2Proof.Reg8) :
    Sys2Proof.Laws.EncodedLength.Statement (.xorReg8Reg8 d r) :=
  Sys2Proof.encode_entry _

theorem Sys2Proof.Laws.EncodedLength.xorReg16Reg16 (d : Sys2Proof.Reg16) (r : Sys2Proof.Reg16) :
    Sys2Proof.Laws.EncodedLength.Statement (.xorReg16Reg16 d r) :=
  Sys2Proof.encode_entry _

theorem Sys2Proof.Laws.EncodedLength.xorReg8Imm8 (d : Sys2Proof.Reg8) (v : Sys2Proof.Byte) :
    Sys2Proof.Laws.EncodedLength.Statement (.xorReg8Imm8 d v) :=
  Sys2Proof.encode_entry _

theorem Sys2Proof.Laws.EncodedLength.xorReg16Imm16 (d : Sys2Proof.Reg16) (v : Sys2Proof.Word) :
    Sys2Proof.Laws.EncodedLength.Statement (.xorReg16Imm16 d v) :=
  Sys2Proof.encode_entry _

theorem Sys2Proof.Laws.EncodedLength.notReg8 (d : Sys2Proof.Reg8) :
    Sys2Proof.Laws.EncodedLength.Statement (.notReg8 d) :=
  Sys2Proof.encode_entry _

theorem Sys2Proof.Laws.EncodedLength.notReg16 (d : Sys2Proof.Reg16) :
    Sys2Proof.Laws.EncodedLength.Statement (.notReg16 d) :=
  Sys2Proof.encode_entry _

theorem Sys2Proof.Laws.EncodedLength.negReg8 (d : Sys2Proof.Reg8) :
    Sys2Proof.Laws.EncodedLength.Statement (.negReg8 d) :=
  Sys2Proof.encode_entry _

theorem Sys2Proof.Laws.EncodedLength.negReg16 (d : Sys2Proof.Reg16) :
    Sys2Proof.Laws.EncodedLength.Statement (.negReg16 d) :=
  Sys2Proof.encode_entry _

theorem Sys2Proof.Laws.EncodedLength.incReg8 (d : Sys2Proof.Reg8) :
    Sys2Proof.Laws.EncodedLength.Statement (.incReg8 d) :=
  Sys2Proof.encode_entry _

theorem Sys2Proof.Laws.EncodedLength.incReg16 (d : Sys2Proof.Reg16) :
    Sys2Proof.Laws.EncodedLength.Statement (.incReg16 d) :=
  Sys2Proof.encode_entry _

theorem Sys2Proof.Laws.EncodedLength.decReg8 (d : Sys2Proof.Reg8) :
    Sys2Proof.Laws.EncodedLength.Statement (.decReg8 d) :=
  Sys2Proof.encode_entry _

theorem Sys2Proof.Laws.EncodedLength.decReg16 (d : Sys2Proof.Reg16) :
    Sys2Proof.Laws.EncodedLength.Statement (.decReg16 d) :=
  Sys2Proof.encode_entry _

theorem Sys2Proof.Laws.EncodedLength.shlReg8 (d : Sys2Proof.Reg8) :
    Sys2Proof.Laws.EncodedLength.Statement (.shlReg8 d) :=
  Sys2Proof.encode_entry _

theorem Sys2Proof.Laws.EncodedLength.shlReg16 (d : Sys2Proof.Reg16) :
    Sys2Proof.Laws.EncodedLength.Statement (.shlReg16 d) :=
  Sys2Proof.encode_entry _

theorem Sys2Proof.Laws.EncodedLength.shrReg8 (d : Sys2Proof.Reg8) :
    Sys2Proof.Laws.EncodedLength.Statement (.shrReg8 d) :=
  Sys2Proof.encode_entry _

theorem Sys2Proof.Laws.EncodedLength.shrReg16 (d : Sys2Proof.Reg16) :
    Sys2Proof.Laws.EncodedLength.Statement (.shrReg16 d) :=
  Sys2Proof.encode_entry _

theorem Sys2Proof.Laws.EncodedLength.rolReg8 (d : Sys2Proof.Reg8) :
    Sys2Proof.Laws.EncodedLength.Statement (.rolReg8 d) :=
  Sys2Proof.encode_entry _

theorem Sys2Proof.Laws.EncodedLength.rolReg16 (d : Sys2Proof.Reg16) :
    Sys2Proof.Laws.EncodedLength.Statement (.rolReg16 d) :=
  Sys2Proof.encode_entry _

theorem Sys2Proof.Laws.EncodedLength.rorReg8 (d : Sys2Proof.Reg8) :
    Sys2Proof.Laws.EncodedLength.Statement (.rorReg8 d) :=
  Sys2Proof.encode_entry _

theorem Sys2Proof.Laws.EncodedLength.rorReg16 (d : Sys2Proof.Reg16) :
    Sys2Proof.Laws.EncodedLength.Statement (.rorReg16 d) :=
  Sys2Proof.encode_entry _

theorem Sys2Proof.Laws.EncodedLength.pushReg16 (r : Sys2Proof.Reg16) :
    Sys2Proof.Laws.EncodedLength.Statement (.pushReg16 r) :=
  Sys2Proof.encode_entry _

theorem Sys2Proof.Laws.EncodedLength.popReg16 (d : Sys2Proof.Reg16) :
    Sys2Proof.Laws.EncodedLength.Statement (.popReg16 d) :=
  Sys2Proof.encode_entry _

theorem Sys2Proof.Laws.EncodedLength.intImm8 (n : Sys2Proof.Byte) :
    Sys2Proof.Laws.EncodedLength.Statement (.intImm8 n) :=
  Sys2Proof.encode_entry _
end

