-- ==== Sys2Proof/Tests/Slice0.lean ====
section
/-! SUPPORT. The model's own tests: ill-formed terms refused, every constructor decoded from bytes written out from
30_encoding.md, one or two steps per instruction with the expected values of 95_test_vectors.md, and a witness for the
hypotheses of every obligation. -/

namespace Sys2Proof.Tests

open Sys2Proof.Machine Sys2Proof.Spec

/-! ### Helpers -/

/-- A state from reset with AX, BX, one 16-bit cell pair at 0x0300 and every flag given. -/
def machine (a b : Word) (cells : Memory) (f : Bool) : State :=
  { State.reset with
    regs := { State.reset.regs with ax := a, bx := b }
    mem := cells
    flags := { of := f, sf := f, zf := f, af := f, pf := f, cf := f } }

/-- The result is a next state with this property. -/
def next (r : Result) (p : State → Bool) : Bool :=
  match r with
  | .next t => p t
  | .fault _ | .refused _ => false

/-- The result is this fault. -/
def faults (r : Result) (f : Fault) : Bool :=
  match r with
  | .fault g => g == f
  | .next _ | .refused _ => false

/-- CF, OF, SF, ZF, AF, PF, in the order of the columns of 95_test_vectors.md. -/
def flagsOf (t : State) : List Bool := [t.flags.cf, t.flags.of, t.flags.sf, t.flags.zf, t.flags.af, t.flags.pf]

/-- The 16-bit value at 0x0300 of page 0. -/
def cell (t : State) : Word := wordOf (readPhys t.mem 0x300) (readPhys t.mem 0x301)

/-- Reset with bytes at 0x0100 of page 0 and IP there. -/
def loaded (bytes : List Byte) : State := { State.reset with mem := storeOf 0x100 bytes, ip := 0x100 }

/-- The command's answer is this error. -/
def errs (r : Reply) (e : Err) : Bool :=
  match r with
  | .fault g => g == e
  | .next _ | .refused _ => false

/-! ### Ill-formed terms (R4, R123) -/

theorem test_immediate_destination_refused : destinationOk .mov [.imm8 1, .reg8 .al] = false := by decide
theorem test_immediate_destination_ill_formed : partsOk defaultConfig .add [.imm8 0xFF, .imm8 0x01] = false := by decide
theorem test_int_immediate_is_a_source : destinationOk .int [.imm8 0x20] = true := by decide
theorem test_push_immediate_passes_only_first_check :
    destinationOk .push [.imm16 1] = true ∧ partsOk defaultConfig .push [.imm16 1] = false := by decide
theorem test_mixed_widths_refused : shapesOk defaultConfig .mov [.reg16 .ax, .reg8 .bl] = false := by decide
theorem test_two_memory_operands_refused : partsOk defaultConfig .mov [.mem8 0x300, .mem8 0x301] = false := by decide
theorem test_memory_immediate_refused : partsOk defaultConfig .mov [.mem16 0x300, .imm16 1] = false := by decide
theorem test_shift_count_refused : partsOk defaultConfig .shl [.reg16 .ax, .imm8 1] = false := by decide
theorem test_no_operand_refused : partsOk defaultConfig .inc [] = false := by decide
theorem test_rel_operand_refused : partsOk defaultConfig .mov [.reg16 .ax, .rel16 4] = false := by decide
theorem test_unknown_mnemonic_refused :
    admission defaultConfig ⟨['j', 'm', 'p'], [.rel16 4]⟩ = .error (.unsupportedMnemonic ['j', 'm', 'p']) := by decide
theorem test_int_word_operand_refused :
    admission defaultConfig ⟨['i', 'n', 't'], [.imm16 0x20]⟩ = .error (.operandTypeMismatch ⟨['i', 'n', 't'], [.imm16 0x20]⟩) := by decide
theorem test_well_formed_parts : partsOk defaultConfig .mov [.reg16 .ax, .imm16 0x1234] = true := by decide
theorem test_no_pages_ill_formed : ¬ ({ defaultConfig with nPages := 0 } : Config).wf := by decide
theorem test_too_many_pages_ill_formed : ¬ ({ defaultConfig with nPages := 65537 } : Config).wf := by decide
theorem test_no_sector_size_ill_formed : ¬ ({ defaultConfig with sectorSize := 0 } : Config).wf := by decide
theorem test_no_sector_count_ill_formed : ¬ ({ defaultConfig with sectorCount := 0 } : Config).wf := by decide
theorem test_equal_services_ill_formed :
    ¬ ({ defaultConfig with services := { specServices with printNo := 0x20 } } : Config).wf := by decide +kernel
theorem test_two_names_for_an_index_ill_formed : ¬ RegTable.wf (⟨.reg8 .al, 0x00⟩ :: specRegTable.tail) := by decide
theorem test_missing_name_ill_formed : ¬ RegTable.wf specRegTable.tail := by decide
theorem test_two_entries_for_an_opcode_ill_formed :
    ¬ OpTable.wf (⟨.mov, [.mem8, .reg8], 0x11, []⟩ :: specOpTable.tail) := by decide +kernel
theorem test_missing_entry_ill_formed : ¬ OpTable.wf specOpTable.tail := by decide +kernel
theorem test_wrong_flags_ill_formed :
    ¬ OpTable.wf (⟨.mov, [.mem8, .reg8], 0x10, [.zf]⟩ :: specOpTable.tail) := by decide +kernel
theorem test_rel_entry_ill_formed : ¬ OpTable.wf (⟨.mov, [.rel8], 0xA0, []⟩ :: specOpTable) := by decide +kernel
theorem test_reset_page_ill_formed :
    ¬ ({ defaultConfig with reset := { specReset with ap := 4 } } : Config).resetWf := by decide
/-- R4: another choice of the tables is another configuration, read by the same decoder. -/
theorem test_other_tables :
    decode { defaultConfig with
        opTable := [⟨.inc, [.reg8], 0xC0, [.of, .sf, .zf, .af, .pf]⟩], regTable := [⟨.reg8 .al, 0x42⟩] } [0xC0, 0x42] =
      .ok (.incReg8 .al, 2) := by decide
/-- R4: another choice of the reset values is another configuration. -/
theorem test_other_reset_values :
    (State.resetWith { defaultConfig with reset := { specReset with ip := 0x100, cur := 7 } }).ip = 0x100 := by decide
theorem test_memory_out_of_order_ill_formed : ¬ Memory.wf [(2, 1), (1, 1)] := by decide
theorem test_memory_with_unlisted_value_ill_formed : ¬ Memory.wf [(1, 0)] := by decide
theorem test_memory_outside_its_size : ¬ Memory.below [(0x40000, 1)] defaultConfig.memSize := by decide

/-! ### Decoding: the bytes of every row, written out from the table of 30_encoding.md -/

theorem test_decode_movMem8Reg8 : decode defaultConfig [0x10, 0x00, 0x03, 0x0C] = .ok (.movMem8Reg8 0x0300 .cl, 4) := by decide
theorem test_decode_movMem16Reg16 : decode defaultConfig [0x11, 0xFE, 0xFF, 0x01] = .ok (.movMem16Reg16 0xFFFE .bx, 4) := by decide
theorem test_decode_movReg8Mem8 : decode defaultConfig [0x12, 0x0E, 0x01, 0x03] = .ok (.movReg8Mem8 .dl 0x0301, 4) := by decide
theorem test_decode_movReg16Mem16 : decode defaultConfig [0x13, 0x06, 0x34, 0x12] = .ok (.movReg16Mem16 .si 0x1234, 4) := by decide
theorem test_decode_movReg8Reg8 : decode defaultConfig [0x14, 0x09, 0x0F] = .ok (.movReg8Reg8 .ah .dh, 3) := by decide
theorem test_decode_movReg16Reg16 : decode defaultConfig [0x15, 0x05, 0x07] = .ok (.movReg16Reg16 .bp .di, 3) := by decide
theorem test_decode_movReg8Imm8 : decode defaultConfig [0x16, 0x0B, 0x7F] = .ok (.movReg8Imm8 .bh 0x7F, 3) := by decide
theorem test_decode_movReg16Imm16 : decode defaultConfig [0x17, 0x04, 0x00, 0x04] = .ok (.movReg16Imm16 .sp 0x0400, 4) := by decide
theorem test_decode_addMem8Reg8 : decode defaultConfig [0x20, 0x00, 0x03, 0x0C] = .ok (.addMem8Reg8 0x0300 .cl, 4) := by decide
theorem test_decode_addMem16Reg16 : decode defaultConfig [0x21, 0xFE, 0xFF, 0x01] = .ok (.addMem16Reg16 0xFFFE .bx, 4) := by decide
theorem test_decode_addReg8Mem8 : decode defaultConfig [0x22, 0x0E, 0x01, 0x03] = .ok (.addReg8Mem8 .dl 0x0301, 4) := by decide
theorem test_decode_addReg16Mem16 : decode defaultConfig [0x23, 0x06, 0x34, 0x12] = .ok (.addReg16Mem16 .si 0x1234, 4) := by decide
theorem test_decode_addReg8Reg8 : decode defaultConfig [0x24, 0x09, 0x0F] = .ok (.addReg8Reg8 .ah .dh, 3) := by decide
theorem test_decode_addReg16Reg16 : decode defaultConfig [0x25, 0x05, 0x07] = .ok (.addReg16Reg16 .bp .di, 3) := by decide
theorem test_decode_addReg8Imm8 : decode defaultConfig [0x26, 0x0B, 0x7F] = .ok (.addReg8Imm8 .bh 0x7F, 3) := by decide
theorem test_decode_addReg16Imm16 : decode defaultConfig [0x27, 0x04, 0x00, 0x04] = .ok (.addReg16Imm16 .sp 0x0400, 4) := by decide
theorem test_decode_subMem8Reg8 : decode defaultConfig [0x30, 0x00, 0x03, 0x0C] = .ok (.subMem8Reg8 0x0300 .cl, 4) := by decide
theorem test_decode_subMem16Reg16 : decode defaultConfig [0x31, 0xFE, 0xFF, 0x01] = .ok (.subMem16Reg16 0xFFFE .bx, 4) := by decide
theorem test_decode_subReg8Mem8 : decode defaultConfig [0x32, 0x0E, 0x01, 0x03] = .ok (.subReg8Mem8 .dl 0x0301, 4) := by decide
theorem test_decode_subReg16Mem16 : decode defaultConfig [0x33, 0x06, 0x34, 0x12] = .ok (.subReg16Mem16 .si 0x1234, 4) := by decide
theorem test_decode_subReg8Reg8 : decode defaultConfig [0x34, 0x09, 0x0F] = .ok (.subReg8Reg8 .ah .dh, 3) := by decide
theorem test_decode_subReg16Reg16 : decode defaultConfig [0x35, 0x05, 0x07] = .ok (.subReg16Reg16 .bp .di, 3) := by decide
theorem test_decode_subReg8Imm8 : decode defaultConfig [0x36, 0x0B, 0x7F] = .ok (.subReg8Imm8 .bh 0x7F, 3) := by decide
theorem test_decode_subReg16Imm16 : decode defaultConfig [0x37, 0x04, 0x00, 0x04] = .ok (.subReg16Imm16 .sp 0x0400, 4) := by decide
theorem test_decode_andMem8Reg8 : decode defaultConfig [0x40, 0x00, 0x03, 0x0C] = .ok (.andMem8Reg8 0x0300 .cl, 4) := by decide
theorem test_decode_andMem16Reg16 : decode defaultConfig [0x41, 0xFE, 0xFF, 0x01] = .ok (.andMem16Reg16 0xFFFE .bx, 4) := by decide
theorem test_decode_andReg8Mem8 : decode defaultConfig [0x42, 0x0E, 0x01, 0x03] = .ok (.andReg8Mem8 .dl 0x0301, 4) := by decide
theorem test_decode_andReg16Mem16 : decode defaultConfig [0x43, 0x06, 0x34, 0x12] = .ok (.andReg16Mem16 .si 0x1234, 4) := by decide
theorem test_decode_andReg8Reg8 : decode defaultConfig [0x44, 0x09, 0x0F] = .ok (.andReg8Reg8 .ah .dh, 3) := by decide
theorem test_decode_andReg16Reg16 : decode defaultConfig [0x45, 0x05, 0x07] = .ok (.andReg16Reg16 .bp .di, 3) := by decide
theorem test_decode_andReg8Imm8 : decode defaultConfig [0x46, 0x0B, 0x7F] = .ok (.andReg8Imm8 .bh 0x7F, 3) := by decide
theorem test_decode_andReg16Imm16 : decode defaultConfig [0x47, 0x04, 0x00, 0x04] = .ok (.andReg16Imm16 .sp 0x0400, 4) := by decide
theorem test_decode_orMem8Reg8 : decode defaultConfig [0x50, 0x00, 0x03, 0x0C] = .ok (.orMem8Reg8 0x0300 .cl, 4) := by decide
theorem test_decode_orMem16Reg16 : decode defaultConfig [0x51, 0xFE, 0xFF, 0x01] = .ok (.orMem16Reg16 0xFFFE .bx, 4) := by decide
theorem test_decode_orReg8Mem8 : decode defaultConfig [0x52, 0x0E, 0x01, 0x03] = .ok (.orReg8Mem8 .dl 0x0301, 4) := by decide
theorem test_decode_orReg16Mem16 : decode defaultConfig [0x53, 0x06, 0x34, 0x12] = .ok (.orReg16Mem16 .si 0x1234, 4) := by decide
theorem test_decode_orReg8Reg8 : decode defaultConfig [0x54, 0x09, 0x0F] = .ok (.orReg8Reg8 .ah .dh, 3) := by decide
theorem test_decode_orReg16Reg16 : decode defaultConfig [0x55, 0x05, 0x07] = .ok (.orReg16Reg16 .bp .di, 3) := by decide
theorem test_decode_orReg8Imm8 : decode defaultConfig [0x56, 0x0B, 0x7F] = .ok (.orReg8Imm8 .bh 0x7F, 3) := by decide
theorem test_decode_orReg16Imm16 : decode defaultConfig [0x57, 0x04, 0x00, 0x04] = .ok (.orReg16Imm16 .sp 0x0400, 4) := by decide
theorem test_decode_xorMem8Reg8 : decode defaultConfig [0x60, 0x00, 0x03, 0x0C] = .ok (.xorMem8Reg8 0x0300 .cl, 4) := by decide
theorem test_decode_xorMem16Reg16 : decode defaultConfig [0x61, 0xFE, 0xFF, 0x01] = .ok (.xorMem16Reg16 0xFFFE .bx, 4) := by decide
theorem test_decode_xorReg8Mem8 : decode defaultConfig [0x62, 0x0E, 0x01, 0x03] = .ok (.xorReg8Mem8 .dl 0x0301, 4) := by decide
theorem test_decode_xorReg16Mem16 : decode defaultConfig [0x63, 0x06, 0x34, 0x12] = .ok (.xorReg16Mem16 .si 0x1234, 4) := by decide
theorem test_decode_xorReg8Reg8 : decode defaultConfig [0x64, 0x09, 0x0F] = .ok (.xorReg8Reg8 .ah .dh, 3) := by decide
theorem test_decode_xorReg16Reg16 : decode defaultConfig [0x65, 0x05, 0x07] = .ok (.xorReg16Reg16 .bp .di, 3) := by decide
theorem test_decode_xorReg8Imm8 : decode defaultConfig [0x66, 0x0B, 0x7F] = .ok (.xorReg8Imm8 .bh 0x7F, 3) := by decide
theorem test_decode_xorReg16Imm16 : decode defaultConfig [0x67, 0x04, 0x00, 0x04] = .ok (.xorReg16Imm16 .sp 0x0400, 4) := by decide
theorem test_decode_notReg8 : decode defaultConfig [0x70, 0x0D] = .ok (.notReg8 .ch, 2) := by decide
theorem test_decode_notReg16 : decode defaultConfig [0x71, 0x03] = .ok (.notReg16 .dx, 2) := by decide
theorem test_decode_negReg8 : decode defaultConfig [0x72, 0x0D] = .ok (.negReg8 .ch, 2) := by decide
theorem test_decode_negReg16 : decode defaultConfig [0x73, 0x03] = .ok (.negReg16 .dx, 2) := by decide
theorem test_decode_incReg8 : decode defaultConfig [0x74, 0x0D] = .ok (.incReg8 .ch, 2) := by decide
theorem test_decode_incReg16 : decode defaultConfig [0x75, 0x03] = .ok (.incReg16 .dx, 2) := by decide
theorem test_decode_decReg8 : decode defaultConfig [0x76, 0x0D] = .ok (.decReg8 .ch, 2) := by decide
theorem test_decode_decReg16 : decode defaultConfig [0x77, 0x03] = .ok (.decReg16 .dx, 2) := by decide
theorem test_decode_shlReg8 : decode defaultConfig [0x78, 0x0D] = .ok (.shlReg8 .ch, 2) := by decide
theorem test_decode_shlReg16 : decode defaultConfig [0x79, 0x03] = .ok (.shlReg16 .dx, 2) := by decide
theorem test_decode_shrReg8 : decode defaultConfig [0x7A, 0x0D] = .ok (.shrReg8 .ch, 2) := by decide
theorem test_decode_shrReg16 : decode defaultConfig [0x7B, 0x03] = .ok (.shrReg16 .dx, 2) := by decide
theorem test_decode_rolReg8 : decode defaultConfig [0x7C, 0x0D] = .ok (.rolReg8 .ch, 2) := by decide
theorem test_decode_rolReg16 : decode defaultConfig [0x7D, 0x03] = .ok (.rolReg16 .dx, 2) := by decide
theorem test_decode_rorReg8 : decode defaultConfig [0x7E, 0x0D] = .ok (.rorReg8 .ch, 2) := by decide
theorem test_decode_rorReg16 : decode defaultConfig [0x7F, 0x03] = .ok (.rorReg16 .dx, 2) := by decide
theorem test_decode_pushReg16 : decode defaultConfig [0x80, 0x02] = .ok (.pushReg16 .cx, 2) := by decide
theorem test_decode_popReg16 : decode defaultConfig [0x81, 0x07] = .ok (.popReg16 .di, 2) := by decide
theorem test_decode_intImm8 : decode defaultConfig [0x90, 0x20] = .ok (.intImm8 0x20, 2) := by decide

/-! ### Bytes that do not decode (V-E3) -/

theorem test_unassigned_opcode : decode defaultConfig [0xFF, 0x08, 0x08, 0x08] = .error .unknownOpcode := by decide
theorem test_reg16_index_in_reg8_field : decode defaultConfig [0x74, 0x00] = .error .badRegisterIndex := by decide
theorem test_reg8_index_in_reg16_field : decode defaultConfig [0x75, 0x08] = .error .badRegisterIndex := by decide
theorem test_index_past_both_ranges : decode defaultConfig [0x14, 0x08, 0x10] = .error .badRegisterIndex := by decide
theorem test_truncated_before_bad_register : decode defaultConfig [0x16, 0x00] = .error .truncated := by decide
theorem test_table_word : decodeTableWord 32 0x12340017 = some (.movReg16Imm16 .ax 0x1234) := by decide
theorem test_placed_word_runs :
    next (step (State.reset.withFetchWord 32 0x12340017)) (fun t => t.regs.ax == 0x1234 && t.ip == 4) = true := by decide

/-! ### One step each, with the values of 95_test_vectors.md -/

/-- V-X1 -/
theorem test_movReg8Reg8 :
    next (exec (.movReg8Reg8 .ah .al) (machine 0x12F0 0 [] true))
      (fun t => t.regs.ax == 0xF0F0 && flagsOf t == [true, true, true, true, true, true]) = true := by decide
/-- V-X1 -/
theorem test_movMem16Reg16 :
    next (exec (.movMem16Reg16 0xFFFE .ax) (machine 0xBEEF 0 [] false))
      (fun t => t.mem == [(0xFFFE, 0xEF), (0xFFFF, 0xBE)]) = true := by decide
/-- V-X1: AP = 1 -/
theorem test_movMem16Reg16_active_page :
    next (exec (.movMem16Reg16 0x0300 .ax) { machine 0x1234 0 [] false with ap := 1 })
      (fun t => t.mem == [(0x10300, 0x34), (0x10301, 0x12)]) = true := by decide
/-- V-X1 -/
theorem test_movReg8Mem8 :
    next (exec (.movReg8Mem8 .cl 0x0301) (machine 0 0 [(0x300, 0x34), (0x301, 0x12)] false))
      (fun t => t.regs.cx == 0x0012) = true := by decide
/-- V-X1 -/
theorem test_movReg16Mem16_at_page_end :
    faults (exec (.movReg16Mem16 .ax 0xFFFF) (machine 0 0 [] false)) .addressOutOfRange = true := by decide
/-- P4 reads a word back with both bytes in their place -/
theorem test_movReg16Mem16 :
    next (exec (.movReg16Mem16 .cx 0x0300) (machine 0 0 [(0x300, 0x34), (0x301, 0x12)] false))
      (fun t => t.regs.cx == 0x1234) = true := by decide
/-- V-X1 -/
theorem test_movMem8Reg8_at_page_end :
    next (exec (.movMem8Reg8 0xFFFF .al) (machine 0x125A 0 [] false)) (fun t => t.mem == [(0xFFFF, 0x5A)]) = true := by
  decide
/-- V-X1 -/
theorem test_movReg16Imm16 :
    next (exec (.movReg16Imm16 .ax 0) (machine 0x1234 0 [] true))
      (fun t => t.regs.ax == 0 && flagsOf t == [true, true, true, true, true, true]) = true := by decide
/-- R14: the other half is kept -/
theorem test_movReg8Imm8 :
    next (exec (.movReg8Imm8 .bh 0x7F) (machine 0 0x1234 [] false)) (fun t => t.regs.bx == 0x7F34) = true := by decide
/-- R150 -/
theorem test_movReg16Reg16 :
    next (exec (.movReg16Reg16 .bx .ax) (machine 0x00FF 0 [] false))
      (fun t => t.regs.bx == 0x00FF && t.regs.ax == 0x00FF) = true := by decide
/-- V-A1 -/
theorem test_addReg8Reg8 :
    next (exec (.addReg8Reg8 .al .bl) (machine 0x56FF 0x7701 [] false))
      (fun t => t.regs.ax == 0x5600 && flagsOf t == [true, false, false, true, true, true]) = true := by decide
/-- V-A1 -/
theorem test_addReg8Imm8 :
    next (exec (.addReg8Imm8 .al 0x01) (machine 0x567F 0 [] false))
      (fun t => t.regs.ax == 0x5680 && flagsOf t == [false, true, true, false, true, false]) = true := by decide
/-- V-A1 -/
theorem test_addReg8Mem8 :
    next (exec (.addReg8Mem8 .al 0x0300) (machine 0x5680 0 [(0x300, 0x80)] false))
      (fun t => t.regs.ax == 0x5600 && flagsOf t == [true, true, false, true, false, true]) = true := by decide
/-- V-A1 -/
theorem test_addMem8Reg8 :
    next (exec (.addMem8Reg8 0x0300 .bl) (machine 0 0x7712 [(0x300, 0x34), (0x301, 0x99)] false))
      (fun t => cell t == 0x9946 && flagsOf t == [false, false, false, false, false, false]) = true := by decide
/-- V-A1 -/
theorem test_addReg16Reg16 :
    next (exec (.addReg16Reg16 .ax .bx) (machine 0xFFFF 0x0001 [] false))
      (fun t => t.regs.ax == 0x0000 && flagsOf t == [true, false, false, true, true, true]) = true := by decide
/-- V-A1 -/
theorem test_addReg16Imm16 :
    next (exec (.addReg16Imm16 .ax 0x0001) (machine 0x7FFF 0 [] false))
      (fun t => t.regs.ax == 0x8000 && flagsOf t == [false, true, true, false, true, true]) = true := by decide
/-- V-A1 -/
theorem test_addReg16Mem16 :
    next (exec (.addReg16Mem16 .ax 0x0300) (machine 0x1234 0 [(0x300, 0x21), (0x301, 0x43)] false))
      (fun t => t.regs.ax == 0x5555 && flagsOf t == [false, false, false, false, false, true]) = true := by decide
/-- V-A1 -/
theorem test_addMem16Reg16 :
    next (exec (.addMem16Reg16 0x0300 .bx) (machine 0 0x0001 [(0x300, 0xFF)] false))
      (fun t => cell t == 0x0100 && flagsOf t == [false, false, false, false, true, true]) = true := by decide
/-- V-A2 -/
theorem test_subReg8Reg8 :
    next (exec (.subReg8Reg8 .al .bl) (machine 0x5600 0x7701 [] false))
      (fun t => t.regs.ax == 0x56FF && flagsOf t == [true, false, true, false, true, true]) = true := by decide
/-- V-A2 -/
theorem test_subReg8Imm8 :
    next (exec (.subReg8Imm8 .al 0x01) (machine 0x5680 0 [] false))
      (fun t => t.regs.ax == 0x567F && flagsOf t == [false, true, false, false, true, false]) = true := by decide
/-- V-A2 -/
theorem test_subReg8Mem8 :
    next (exec (.subReg8Mem8 .al 0x0300) (machine 0x567F 0 [(0x300, 0xFF)] false))
      (fun t => t.regs.ax == 0x5680 && flagsOf t == [true, true, true, false, false, false]) = true := by decide
/-- V-A2 -/
theorem test_subMem8Reg8 :
    next (exec (.subMem8Reg8 0x0300 .bl) (machine 0 0x7730 [(0x300, 0x50), (0x301, 0x99)] false))
      (fun t => cell t == 0x9920 && flagsOf t == [false, false, false, false, false, false]) = true := by decide
/-- V-A2 -/
theorem test_subReg16Reg16 :
    next (exec (.subReg16Reg16 .ax .bx) (machine 0x0000 0x0001 [] false))
      (fun t => t.regs.ax == 0xFFFF && flagsOf t == [true, false, true, false, true, true]) = true := by decide
/-- V-A2 -/
theorem test_subReg16Imm16 :
    next (exec (.subReg16Imm16 .ax 0x0001) (machine 0x8000 0 [] false))
      (fun t => t.regs.ax == 0x7FFF && flagsOf t == [false, true, false, false, true, true]) = true := by decide
/-- V-A2 -/
theorem test_subReg16Mem16 :
    next (exec (.subReg16Mem16 .ax 0x0300) (machine 0x7FFF 0 [(0x300, 0xFF), (0x301, 0xFF)] false))
      (fun t => t.regs.ax == 0x8000 && flagsOf t == [true, true, true, false, false, true]) = true := by decide
/-- V-A2 -/
theorem test_subMem16Reg16 :
    next (exec (.subMem16Reg16 0x0300 .bx) (machine 0 0x0100 [(0x301, 0x02)] false))
      (fun t => cell t == 0x0100 && flagsOf t == [false, false, false, false, false, true]) = true := by decide
/-- V-A5 -/
theorem test_andReg8Reg8 :
    next (exec (.andReg8Reg8 .al .bl) (machine 0x56AA 0x7755 [] true))
      (fun t => t.regs.ax == 0x5600 && flagsOf t == [false, false, false, true, true, true]) = true := by decide
/-- V-A5 -/
theorem test_andReg8Imm8 :
    next (exec (.andReg8Imm8 .al 0x3C) (machine 0x56F0 0 [] true))
      (fun t => t.regs.ax == 0x5630 && flagsOf t == [false, false, false, false, true, true]) = true := by decide
/-- V-A5 -/
theorem test_andReg8Mem8 :
    next (exec (.andReg8Mem8 .al 0x0300) (machine 0x56FF 0 [(0x300, 0x0F)] true))
      (fun t => t.regs.ax == 0x560F && flagsOf t == [false, false, false, false, true, true]) = true := by decide
/-- V-A5 -/
theorem test_andMem8Reg8 :
    next (exec (.andMem8Reg8 0x0300 .bl) (machine 0 0x773C [(0x300, 0xF0), (0x301, 0x99)] true))
      (fun t => cell t == 0x9930 && flagsOf t == [false, false, false, false, true, true]) = true := by decide
/-- V-A5 -/
theorem test_andReg16Reg16 :
    next (exec (.andReg16Reg16 .ax .bx) (machine 0x8001 0xFFFF [] true))
      (fun t => t.regs.ax == 0x8001 && flagsOf t == [false, false, true, false, true, false]) = true := by decide
/-- V-A5 -/
theorem test_andReg16Imm16 :
    next (exec (.andReg16Imm16 .ax 0x0F00) (machine 0x00F0 0 [] true))
      (fun t => t.regs.ax == 0x0000 && flagsOf t == [false, false, false, true, true, true]) = true := by decide
/-- V-A5 -/
theorem test_andReg16Mem16 :
    next (exec (.andReg16Mem16 .ax 0x0300) (machine 0x1234 0 [(0x300, 0xFF)] true))
      (fun t => t.regs.ax == 0x0034 && flagsOf t == [false, false, false, false, true, false]) = true := by decide
/-- V-A5 -/
theorem test_andMem16Reg16 :
    next (exec (.andMem16Reg16 0x0300 .bx) (machine 0 0xFFFF [(0x300, 0x01), (0x301, 0x80)] true))
      (fun t => cell t == 0x8001 && flagsOf t == [false, false, true, false, true, false]) = true := by decide
/-- V-A5 -/
theorem test_orReg8Reg8 :
    next (exec (.orReg8Reg8 .al .bl) (machine 0x56AA 0x7755 [] true))
      (fun t => t.regs.ax == 0x56FF && flagsOf t == [false, false, true, false, true, true]) = true := by decide
/-- V-A5 -/
theorem test_orReg8Imm8 :
    next (exec (.orReg8Imm8 .al 0x01) (machine 0x5680 0 [] true))
      (fun t => t.regs.ax == 0x5681 && flagsOf t == [false, false, true, false, true, true]) = true := by decide
/-- V-A5 -/
theorem test_orReg8Mem8 :
    next (exec (.orReg8Mem8 .al 0x0300) (machine 0x5600 0 [] true))
      (fun t => t.regs.ax == 0x5600 && flagsOf t == [false, false, false, true, true, true]) = true := by decide
/-- V-A5 -/
theorem test_orMem8Reg8 :
    next (exec (.orMem8Reg8 0x0300 .bl) (machine 0 0x7755 [(0x300, 0xAA), (0x301, 0x99)] true))
      (fun t => cell t == 0x99FF && flagsOf t == [false, false, true, false, true, true]) = true := by decide
/-- V-A5 -/
theorem test_orReg16Reg16 :
    next (exec (.orReg16Reg16 .ax .bx) (machine 0x00F0 0x0F00 [] true))
      (fun t => t.regs.ax == 0x0FF0 && flagsOf t == [false, false, false, false, true, true]) = true := by decide
/-- V-A5 -/
theorem test_orReg16Imm16 :
    next (exec (.orReg16Imm16 .ax 0x00FF) (machine 0x1234 0 [] true))
      (fun t => t.regs.ax == 0x12FF && flagsOf t == [false, false, false, false, true, true]) = true := by decide
/-- V-A5 -/
theorem test_orReg16Mem16 :
    next (exec (.orReg16Mem16 .ax 0x0300) (machine 0x8001 0 [(0x300, 0xFF), (0x301, 0xFF)] true))
      (fun t => t.regs.ax == 0xFFFF && flagsOf t == [false, false, true, false, true, true]) = true := by decide
/-- V-A5 -/
theorem test_orMem16Reg16 :
    next (exec (.orMem16Reg16 0x0300 .bx) (machine 0 0x0F00 [(0x300, 0xF0)] true))
      (fun t => cell t == 0x0FF0 && flagsOf t == [false, false, false, false, true, true]) = true := by decide
/-- V-A5 -/
theorem test_xorReg8Reg8 :
    next (exec (.xorReg8Reg8 .al .bl) (machine 0x56FF 0x770F [] true))
      (fun t => t.regs.ax == 0x56F0 && flagsOf t == [false, false, true, false, true, true]) = true := by decide
/-- V-A5 -/
theorem test_xorReg8Imm8 :
    next (exec (.xorReg8Imm8 .al 0x3C) (machine 0x56F0 0 [] true))
      (fun t => t.regs.ax == 0x56CC && flagsOf t == [false, false, true, false, true, true]) = true := by decide
/-- V-A5 -/
theorem test_xorReg8Mem8 :
    next (exec (.xorReg8Mem8 .al 0x0300) (machine 0x565A 0 [(0x300, 0x5A)] true))
      (fun t => t.regs.ax == 0x5600 && flagsOf t == [false, false, false, true, true, true]) = true := by decide
/-- V-A5 -/
theorem test_xorMem8Reg8 :
    next (exec (.xorMem8Reg8 0x0300 .bl) (machine 0 0x770F [(0x300, 0xFF), (0x301, 0x99)] true))
      (fun t => cell t == 0x99F0 && flagsOf t == [false, false, true, false, true, true]) = true := by decide
/-- V-A5 -/
theorem test_xorReg16Reg16 :
    next (exec (.xorReg16Reg16 .ax .bx) (machine 0x8001 0xFFFF [] true))
      (fun t => t.regs.ax == 0x7FFE && flagsOf t == [false, false, false, false, true, false]) = true := by decide
/-- V-A5 -/
theorem test_xorReg16Imm16 :
    next (exec (.xorReg16Imm16 .ax 0x7FFF) (machine 0xFFFF 0 [] true))
      (fun t => t.regs.ax == 0x8000 && flagsOf t == [false, false, true, false, true, true]) = true := by decide
/-- V-A5 -/
theorem test_xorReg16Mem16 :
    next (exec (.xorReg16Mem16 .ax 0x0300) (machine 0x1234 0 [(0x300, 0xFF)] true))
      (fun t => t.regs.ax == 0x12CB && flagsOf t == [false, false, false, false, true, false]) = true := by decide
/-- V-A5 -/
theorem test_xorMem16Reg16 :
    next (exec (.xorMem16Reg16 0x0300 .bx) (machine 0 0x7FFF [(0x300, 0xFF), (0x301, 0xFF)] true))
      (fun t => cell t == 0x8000 && flagsOf t == [false, false, true, false, true, true]) = true := by decide
/-- V-X1: the source is the destination's other half -/
theorem test_add_alias_halves :
    next (exec (.addReg8Reg8 .al .ah) (machine 0xF0F0 0 [] false))
      (fun t => t.regs.ax == 0xF0E0 && flagsOf t == [true, false, true, false, false, false]) = true := by decide
/-- V-A5: CF and OF cleared, AF kept -/
theorem test_and_same_operand :
    next (exec (.andReg8Reg8 .al .al) (machine 0x0001 0 [] true))
      (fun t => t.regs.ax == 0x0001 && flagsOf t == [false, false, false, false, true, false]) = true := by decide
/-- V-A3 -/
theorem test_negReg8 :
    next (exec (.negReg8 .al) (machine 0x5600 0 [] false))
      (fun t => t.regs.ax == 0x5600 && flagsOf t == [false, false, false, true, false, true]) = true := by decide
/-- V-A3 -/
theorem test_negReg8_second :
    next (exec (.negReg8 .al) (machine 0x5680 0 [] false))
      (fun t => t.regs.ax == 0x5680 && flagsOf t == [true, true, true, false, false, false]) = true := by decide
/-- V-A3 -/
theorem test_negReg16 :
    next (exec (.negReg16 .ax) (machine 0x0001 0 [] false))
      (fun t => t.regs.ax == 0xFFFF && flagsOf t == [true, false, true, false, true, true]) = true := by decide
/-- V-A3 -/
theorem test_negReg16_second :
    next (exec (.negReg16 .ax) (machine 0x0100 0 [] false))
      (fun t => t.regs.ax == 0xFF00 && flagsOf t == [true, false, true, false, false, true]) = true := by decide
/-- V-A4 -/
theorem test_incReg8 :
    next (exec (.incReg8 .al) (machine 0x567F 0 [] true))
      (fun t => t.regs.ax == 0x5680 && flagsOf t == [true, true, true, false, true, false]) = true := by decide
/-- V-A4 -/
theorem test_incReg8_second :
    next (exec (.incReg8 .al) (machine 0x56FF 0 [] true))
      (fun t => t.regs.ax == 0x5600 && flagsOf t == [true, false, false, true, true, true]) = true := by decide
/-- V-A4 -/
theorem test_incReg16 :
    next (exec (.incReg16 .ax) (machine 0xFFFF 0 [] true))
      (fun t => t.regs.ax == 0x0000 && flagsOf t == [true, false, false, true, true, true]) = true := by decide
/-- V-A4 -/
theorem test_incReg16_second :
    next (exec (.incReg16 .ax) (machine 0x7FFF 0 [] true))
      (fun t => t.regs.ax == 0x8000 && flagsOf t == [true, true, true, false, true, true]) = true := by decide
/-- V-A4 -/
theorem test_decReg8 :
    next (exec (.decReg8 .al) (machine 0x5600 0 [] false))
      (fun t => t.regs.ax == 0x56FF && flagsOf t == [false, false, true, false, true, true]) = true := by decide
/-- V-A4 -/
theorem test_decReg8_second :
    next (exec (.decReg8 .al) (machine 0x5680 0 [] false))
      (fun t => t.regs.ax == 0x567F && flagsOf t == [false, true, false, false, true, false]) = true := by decide
/-- V-A4 -/
theorem test_decReg16 :
    next (exec (.decReg16 .ax) (machine 0x0000 0 [] false))
      (fun t => t.regs.ax == 0xFFFF && flagsOf t == [false, false, true, false, true, true]) = true := by decide
/-- V-A4 -/
theorem test_decReg16_second :
    next (exec (.decReg16 .ax) (machine 0x8000 0 [] false))
      (fun t => t.regs.ax == 0x7FFF && flagsOf t == [false, true, false, false, true, true]) = true := by decide
/-- V-A6 -/
theorem test_notReg8 :
    next (exec (.notReg8 .al) (machine 0x56FF 0 [] true))
      (fun t => t.regs.ax == 0x5600 && flagsOf t == [true, true, true, true, true, true]) = true := by decide
/-- V-A6 -/
theorem test_notReg8_second :
    next (exec (.notReg8 .al) (machine 0x560F 0 [] true))
      (fun t => t.regs.ax == 0x56F0 && flagsOf t == [true, true, true, true, true, true]) = true := by decide
/-- V-A6 -/
theorem test_notReg16 :
    next (exec (.notReg16 .ax) (machine 0x1234 0 [] true))
      (fun t => t.regs.ax == 0xEDCB && flagsOf t == [true, true, true, true, true, true]) = true := by decide
/-- V-A7 -/
theorem test_shlReg8 :
    next (exec (.shlReg8 .al) (machine 0x56C0 0 [] true))
      (fun t => t.regs.ax == 0x5680 && flagsOf t == [true, false, true, false, true, false]) = true := by decide
/-- V-A7 -/
theorem test_shlReg8_second :
    next (exec (.shlReg8 .al) (machine 0x5640 0 [] true))
      (fun t => t.regs.ax == 0x5680 && flagsOf t == [false, true, true, false, true, false]) = true := by decide
/-- V-A7 -/
theorem test_shlReg16 :
    next (exec (.shlReg16 .ax) (machine 0x8001 0 [] true))
      (fun t => t.regs.ax == 0x0002 && flagsOf t == [true, true, false, false, true, false]) = true := by decide
/-- V-A7 -/
theorem test_shlReg16_second :
    next (exec (.shlReg16 .ax) (machine 0x4000 0 [] true))
      (fun t => t.regs.ax == 0x8000 && flagsOf t == [false, true, true, false, true, true]) = true := by decide
/-- V-A7 -/
theorem test_shrReg8 :
    next (exec (.shrReg8 .al) (machine 0x5681 0 [] true))
      (fun t => t.regs.ax == 0x5640 && flagsOf t == [true, true, false, false, true, false]) = true := by decide
/-- V-A7 -/
theorem test_shrReg8_second :
    next (exec (.shrReg8 .al) (machine 0x5680 0 [] true))
      (fun t => t.regs.ax == 0x5640 && flagsOf t == [false, true, false, false, true, false]) = true := by decide
/-- V-A7 -/
theorem test_shrReg16 :
    next (exec (.shrReg16 .ax) (machine 0xFFFF 0 [] true))
      (fun t => t.regs.ax == 0x7FFF && flagsOf t == [true, true, false, false, true, true]) = true := by decide
/-- V-A7 -/
theorem test_shrReg16_second :
    next (exec (.shrReg16 .ax) (machine 0x0001 0 [] true))
      (fun t => t.regs.ax == 0x0000 && flagsOf t == [true, false, false, true, true, true]) = true := by decide
/-- V-A7 -/
theorem test_rolReg8 :
    next (exec (.rolReg8 .al) (machine 0x5600 0 [] true))
      (fun t => t.regs.ax == 0x5600 && flagsOf t == [false, false, false, true, true, true]) = true := by decide
/-- V-A7 -/
theorem test_rolReg8_second :
    next (exec (.rolReg8 .al) (machine 0x56C0 0 [] true))
      (fun t => t.regs.ax == 0x5681 && flagsOf t == [true, false, true, false, true, true]) = true := by decide
/-- V-A7 -/
theorem test_rolReg16 :
    next (exec (.rolReg16 .ax) (machine 0x8001 0 [] true))
      (fun t => t.regs.ax == 0x0003 && flagsOf t == [true, true, false, false, true, true]) = true := by decide
/-- V-A7 -/
theorem test_rolReg16_second :
    next (exec (.rolReg16 .ax) (machine 0x4000 0 [] true))
      (fun t => t.regs.ax == 0x8000 && flagsOf t == [false, true, true, false, true, true]) = true := by decide
/-- V-A7 -/
theorem test_rorReg8 :
    next (exec (.rorReg8 .al) (machine 0x5681 0 [] true))
      (fun t => t.regs.ax == 0x56C0 && flagsOf t == [true, false, true, false, true, true]) = true := by decide
/-- V-A7 -/
theorem test_rorReg8_second :
    next (exec (.rorReg8 .al) (machine 0x5601 0 [] true))
      (fun t => t.regs.ax == 0x5680 && flagsOf t == [true, true, true, false, true, false]) = true := by decide
/-- V-A7 -/
theorem test_rorReg16 :
    next (exec (.rorReg16 .ax) (machine 0x8001 0 [] true))
      (fun t => t.regs.ax == 0xC000 && flagsOf t == [true, false, true, false, true, true]) = true := by decide
/-- V-A7 -/
theorem test_rorReg16_second :
    next (exec (.rorReg16 .ax) (machine 0x0001 0 [] true))
      (fun t => t.regs.ax == 0x8000 && flagsOf t == [true, true, true, false, true, true]) = true := by decide

/-- V-X2 -/
theorem test_push_lowest_slot :
    next (exec (.pushReg16 .cx) { State.reset with regs := { State.reset.regs with sp := 0x0002, cx := 0xBEEF } })
      (fun t => t.regs.sp == 0 && t.mem == [(0, 0xEF), (1, 0xBE)]) = true := by decide
/-- V-X2: the old value of SP -/
theorem test_push_sp :
    next (exec (.pushReg16 .sp) { State.reset with regs := { State.reset.regs with sp := 0x0200 } })
      (fun t => t.regs.sp == 0x01FE && t.mem == [(0x1FF, 0x02)]) = true := by decide
/-- V-X2 -/
theorem test_push_at_reset : faults (exec (.pushReg16 .ax) State.reset) .addressOutOfRange = true := by decide
/-- V-X2: SP wraps to 0 -/
theorem test_pop_highest_slot :
    next (exec (.popReg16 .ax)
        { State.reset with regs := { State.reset.regs with sp := 0xFFFE }, mem := [(0xFFFE, 0xCD), (0xFFFF, 0xAB)] })
      (fun t => t.regs.ax == 0xABCD && t.regs.sp == 0) = true := by decide
/-- V-X2: the popped value and not SP + 2 -/
theorem test_pop_sp :
    next (exec (.popReg16 .sp)
        { State.reset with regs := { State.reset.regs with sp := 0x0200 }, mem := [(0x200, 0x78), (0x201, 0x56)] })
      (fun t => t.regs.sp == 0x5678) = true := by decide
/-- V-X3's third row, moved to the page end: the page is BX, not AP -/
theorem test_print_uses_bx :
    next (exec (.intImm8 0x09)
        { State.reset with
          regs := { State.reset.regs with bx := 1, dx := 0xFFFE }, mem := [(0x1FFFE, 0x41), (0x1FFFF, 0x24)] })
      (fun t => t.events == [.output [0x41]] && t.ap == 0) = true := by decide +kernel
/-- V-X3 -/
theorem test_print_of_missing_page :
    faults (exec (.intImm8 0x09) { State.reset with regs := { State.reset.regs with bx := 4 } }) .addressOutOfRange
      = true := by decide
/-- V-X3 -/
theorem test_readline_at_page_end :
    next (exec (.intImm8 0x0A)
        { State.reset with regs := { State.reset.regs with dx := 0xFFFE }, hostLines := [[0x61], [0x62]] })
      (fun t => t.mem == [(0xFFFE, 0x61), (0xFFFF, 0x24)] && t.events == [.inputTaken [0x61]] && t.hostLines == [[0x62]])
      = true := by decide
/-- V-X3 -/
theorem test_readline_too_long :
    faults (exec (.intImm8 0x0A)
        { State.reset with regs := { State.reset.regs with dx := 0xFFFE }, hostLines := [[0x61, 0x62]] })
      .addressOutOfRange = true := by decide
/-- V-X3 -/
theorem test_terminate_step :
    next (step (loaded [0x90, 0x20])) (fun t => t.ip == 0x102 && t.events == [.terminateRequest]) = true := by decide
/-- V-X3 -/
theorem test_unsupported_service :
    faults (exec (.intImm8 0x21) State.reset) (.unsupportedService 0x21) = true := by decide

/-! ### Steps (V-X4, V-X6) -/

theorem test_step_at_reset :
    faults (step State.reset) (.disassembleDiagnostic 0 0x00 .unknownOpcode) = true := by decide
theorem test_step_bad_register :
    faults (step (loaded [0x74, 0x00])) (.disassembleDiagnostic 0x100 0x74 .badRegisterIndex) = true := by decide
theorem test_step_truncated_at_page_end :
    faults (step { State.reset with mem := storeOf 0xFFFD [0x17, 0x00, 0x12], ip := 0xFFFD })
      (.disassembleDiagnostic 0xFFFD 0x17 .truncated) = true := by decide
theorem test_step_wraps_ip :
    next (step { State.reset with mem := storeOf 0xFFFE [0x74, 0x08], ip := 0xFFFE })
      (fun t => t.regs.ax == 1 && t.ip == 0 && t.ap == 0) = true := by decide
theorem test_step_modifies_code :
    next (step { loaded [0x10, 0x04, 0x01, 0x08, 0x00, 0x08] with regs := { State.reset.regs with ax := 0x0074 } })
      (fun t => readPhys t.mem 0x104 == 0x74 && t.ip == 0x104) = true := by decide

/-! ### The text of an instruction (V-E1, V-E2) -/

theorem test_assemble_any_case :
    assemble defaultConfig ['M', 'O', 'V', ' ', 'a', 'x', ' ', ',', ' ', '0', 'X', '1', '2', '3', '4'] =
      .ok [0x17, 0x00, 0x34, 0x12] := by decide
theorem test_assemble_bare_digits_are_an_offset :
    assemble defaultConfig ['m', 'o', 'v', ' ', 'A', 'L', ',', ' ', '1', '0', '0'] = .ok [0x12, 0x08, 0x00, 0x01] := by decide
theorem test_assemble_int_decimal : assemble defaultConfig ['i', 'n', 't', ' ', '3', '2'] = .ok [0x90, 0x20] := by decide
theorem test_assemble_malformed :
    assemble defaultConfig ['m', 'o', 'v', ' ', 'A', 'X', ',', ' ', '0', 'x', 'Z', 'Z'] =
      .error (.asmMalformedLiteral ['0', 'x', 'Z', 'Z']) := by decide
theorem test_text_of_an_instruction :
    instrText (.movReg8Mem8 .cl 0x0301) = ['m', 'o', 'v', ' ', 'C', 'L', ',', ' ', '0', '3', '0', '1'] := by decide

/-! ### Commands (V-M, V-D) -/

/-- V-M19: an offset alone is in the active page -/
theorem test_peek_offset_in_active_page :
    (match perform (.peek (.offset 0x100)) { State.reset with ap := 2, mem := [(0x20100, 0xAB)] } with
      | .next (.byte b, _) => b == 0xAB
      | _ => false) = true := by decide
theorem test_peek_missing_page : errs (perform (.peek (.full 4 0)) State.reset) .outOfRange = true := by decide
theorem test_move_one_shared_byte :
    errs (perform (.move (.full 0 0x100) 0x10F (.full 0 0x10F)) State.reset) .overlapError = true := by decide
theorem test_move_range_check_first :
    errs (perform (.move (.full 0 0x100) 0x1FF (.full 0 0xFF80)) State.reset) .outOfRange = true := by decide
theorem test_set_page_missing : errs (perform (.setPage 4) State.reset) .outOfRange = true := by decide
theorem test_code_store_to_page_end :
    (stateAfter (.codeStore [0x17, 0x00, 0x34, 0x12]) { State.reset with cur := 0xFFFC }).cur = 0 := by decide
theorem test_code_store_past_page_end :
    errs (perform (.codeStore [0x17, 0x00, 0x34, 0x12]) { State.reset with cur := 0xFFFD }) .outOfRange = true := by decide
theorem test_disk_write_no_sector_at_end :
    errs (perform (.diskWrite (.full 0 0) 128 1) State.reset) .outOfRange = true ∧
    errs (perform (.diskWrite (.full 0 0) 129 0) State.reset) .outOfRange = true ∧
    errs (perform (.diskWrite (.full 0 0) 128 0) State.reset) .outOfRange = false := by decide
theorem test_disk_bytes_past_end : errs (perform (.diskBytes 65535 65536) State.reset) .outOfRange = true := by decide

/-! ### Witnesses: a state and operands that meet the hypotheses of each obligation -/

/-- A small machine: four pages, a disk of four sectors of two bytes. -/
def small : State := State.resetWith { defaultConfig with sectorSize := 2, sectorCount := 4 }

/-- Reset with SP, BX and DX. -/
def withSp (v : Word) : State := { State.reset with regs := { State.reset.regs with sp := v } }

/-- Reset with the registers of the services. -/
def withBxDx (b d : Word) : State := { State.reset with regs := { State.reset.regs with bx := b, dx := d } }

/-- The entry of `inc` (reg8). -/
def incEntry : Entry := ⟨.inc, [.reg8], 0x74, [.of, .sf, .zf, .af, .pf]⟩

/-- The entry of `mov` (reg16, imm16). -/
def movEntry : Entry := ⟨.mov, [.reg16, .imm16], 0x17, []⟩

theorem witness_DecodeEncodeRoundTrip : defaultConfig.tablesWf := ⟨specRegTable_wf, specOpTable_wf⟩

theorem witness_DecodedBytesAreTheEncoding :
    defaultConfig.tablesWf ∧
    decode defaultConfig [0x17, 0x00, 0x34, 0x12, 0xFF] = .ok (.movReg16Imm16 .ax 0x1234, 4) ∧
    decode defaultConfig [0x74, 0x08, 0x00, 0x00] = .ok (.incReg8 .al, 2) :=
  ⟨⟨specRegTable_wf, specOpTable_wf⟩, by decide⟩

theorem witness_WorkedEncodingsDecode : SpecTables defaultConfig := ⟨rfl, rfl⟩

theorem witness_UnassignedOpcodesAreRejected :
    SpecTables defaultConfig ∧
    decode defaultConfig [0x0F] = .error .unknownOpcode ∧ decode defaultConfig [0x18] = .error .unknownOpcode ∧
    decode defaultConfig [0x82] = .error .unknownOpcode ∧ decode defaultConfig [0x90] ≠ .error .unknownOpcode :=
  ⟨⟨rfl, rfl⟩, by decide⟩

/-- Two bytes at (0, 0xFFFE) of page 0. -/
def atPageEnd (bytes : List Byte) : State := { State.reset with mem := storeOf 0xFFFE bytes, ip := 0xFFFE }

theorem witness_DecodeAnswersInstructionOrDiagnostic :
    (defaultConfig.tablesWf ∧ Names State.reset (.full 3 0xFFFF) 3 0xFFFF ∧ Names State.reset (.offset 0xFFFF) 0 0xFFFF) ∧
    (¬ PageExists State.reset 4 ∧ PageExists State.reset 3) ∧
    (let s := atPageEnd [0x74, 0x08]
     (0xFFFE : Word).toNat + (encode s.cfg (.incReg8 .al)).length - 1 ≤ 0xFFFF ∧
       readBytes s.mem (phys 0 0xFFFE) (encode s.cfg (.incReg8 .al)).length = encode s.cfg (.incReg8 .al)) ∧
    entryOfOpcode State.reset.cfg (byteAt State.reset 3 0xFFFF) = none ∧
    (let s := atPageEnd [0x17, 0x08]
     entryOfOpcode s.cfg (byteAt s 0 0xFFFE) = some movEntry ∧ 0xFFFF < (0xFFFE : Word).toNat + entryLength movEntry - 1) ∧
    (let s := atPageEnd [0x74, 0x07]
     entryOfOpcode s.cfg (byteAt s 0 0xFFFE) = some incEntry ∧
       (0xFFFE : Word).toNat + entryLength incEntry - 1 ≤ 0xFFFF ∧ incEntry.signature = [] ++ Shape.reg8 :: [] ∧
       regOfIndex s.cfg (readPhys s.mem (phys 0 0xFFFE + 1 + (([] : List Shape).map Shape.bytes).sum)) =
         some (.reg16 .di)) ∧
    ((0 < 1 ∧ 1 < (encode defaultConfig (.incReg8 .al)).length) ∧
      (0 < 3 ∧ 3 < (encode defaultConfig (.movReg16Imm16 .ax 0x1234)).length)) ∧
    (PageExists State.reset State.reset.ap ∧
      perform (.decode (.offset State.reset.ip)) State.reset =
        .next (.diagnostic State.reset.ip (byteAt State.reset State.reset.ap State.reset.ip) .unknownOpcode,
          State.reset)) ∧
    ((0x100 : Nat) ≤ (0x100 : Word).toNat ∧
      decode defaultConfig
          (readBytes [(0x100, 0x74)] ((0 : Word).toNat * 65536 + 0x100) (min 4 ((0x100 : Word).toNat + 1 - 0x100))) =
        .error .truncated) :=
  ⟨⟨⟨specRegTable_wf, specOpTable_wf⟩, .inl rfl, .inr ⟨rfl, rfl⟩⟩, by decide, by decide, by decide, by decide, by decide,
    by decide, ⟨by decide, rfl⟩, by decide⟩

/-- The two ways a register field can be bad, each at both ends of the bytes that make it so. -/
theorem witness_RegisterFieldsAreThoseOfTheTable :
    (SpecTables defaultConfig ∧ 0x10 ≤ (0x10 : Byte).toNat ∧ 0x10 ≤ (0xFF : Byte).toNat) ∧
    ((∀ x ∈ registerRows, upperText ['Z', 'X'] ≠ x.2.2) ∧ ∀ x ∈ aliasRows, upperText ['Z', 'X'] ≠ x.2.2.1) ∧
    (upperText ['a', 'X'] = ['A', 'X'] ∧ upperText ['d', 'h'] = ['D', 'H']) ∧
    (incEntry ∈ defaultConfig.opTable ∧ incEntry.signature = [] ++ Shape.reg8 :: [] ∧
      ([0x07] : List Byte)[(([] : List Shape).map Shape.bytes).sum]? = some 0x07 ∧
      entryLength incEntry ≤ ([0x07] : List Byte).length + 1) ∧
    (movEntry ∈ defaultConfig.opTable ∧ movEntry.signature = [] ++ Shape.reg16 :: [.imm16] ∧
      ([0x08, 0x00, 0x00] : List Byte)[(([] : List Shape).map Shape.bytes).sum]? = some 0x08 ∧
      entryLength movEntry ≤ ([0x08, 0x00, 0x00] : List Byte).length + 1) ∧
    (BadRegister defaultConfig .reg8 0x07 ∧ BadRegister defaultConfig .reg8 0x10) ∧
    (BadRegister defaultConfig .reg16 0x08 ∧ BadRegister defaultConfig .reg16 0xFF) := by
  have h7 : regOfIndex defaultConfig 0x07 = some (.reg16 .di) := by decide
  have h8 : regOfIndex defaultConfig 0x08 = some (.reg8 .al) := by decide
  have h10 : regOfIndex defaultConfig 0x10 = none := by decide
  have hff : regOfIndex defaultConfig 0xFF = none := by decide
  exact ⟨⟨⟨rfl, rfl⟩, by decide⟩, by decide, by decide, by decide, by decide,
    ⟨.inl ⟨rfl, fun r => by rw [h7]; simp⟩, .inl ⟨rfl, fun r => by rw [h10]; simp⟩⟩,
    ⟨.inr ⟨rfl, fun r => by rw [h8]; simp⟩, .inr ⟨rfl, fun r => by rw [hff]; simp⟩⟩⟩

theorem witness_ExecAdmitsExactlyTheTableKeys :
    State.reset.cfg.tablesWf ∧
    (∃ t, exec (.incReg8 .al) State.reset = .next t) ∧
    Mnemonic.ofName ['c', 'm', 'p'] = none ∧
    (Mnemonic.ofName ['m', 'o', 'v'] = some .mov ∧
      [Operand.reg16 .ax, .imm16 1].map Operand.shape ∈ Mnemonic.mov.signatures ∧
      [Operand.reg16 .ax, .reg8 .bl].map Operand.shape ∉ Mnemonic.mov.signatures) ∧
    (Mnemonic.ofName ['a', 'd', 'd'] = some .add ∧ (Operand.imm8 0xFF).shape = .imm8 ∧ Mnemonic.add ≠ .int) :=
  ⟨⟨specRegTable_wf, specOpTable_wf⟩, ⟨_, rfl⟩, by decide⟩

theorem witness_TextAssemblesToTheEncoding : SpecTables defaultConfig := ⟨rfl, rfl⟩

theorem witness_StepRunsTheDecodedInstruction :
    (PageExists (loaded [0x74, 0x08]) 0 ∧
      decode defaultConfig (fetchWindow (loaded [0x74, 0x08]) 0 0x100) = .ok (.incReg8 .al, 2) ∧ (Instr.incReg8 .al).wellFormed defaultConfig = true ∧
      next (exec (.incReg8 .al) (loaded [0x74, 0x08])) (fun _ => true) = true) ∧
    (decode defaultConfig (fetchWindow (loaded [0x80, 0x00]) 0 0x100) = .ok (.pushReg16 .ax, 2) ∧
      faults (exec (.pushReg16 .ax) (loaded [0x80, 0x00])) .addressOutOfRange = true) ∧
    (decode defaultConfig (fetchWindow State.reset 0 0) = .error .unknownOpcode ∧
      faults (step State.reset) (.disassembleDiagnostic 0 0x00 .unknownOpcode) = true) := by decide

theorem witness_StepsFetchOnlyWithinThePage :
    (∃ t, step { State.reset with mem := storeOf 0xFFFE [0x74, 0x08], ip := 0xFFFE } = .next t) ∧
    (let s : State := { State.reset with mem := [(0xFFFF, 0x74)], ip := 0xFFFF }
     PageExists s s.ap ∧ entryOfOpcode s.cfg (byteAt s s.ap s.ip) = some incEntry ∧
       0xFFFF < s.ip.toNat + entryLength incEntry - 1) :=
  ⟨⟨_, rfl⟩, by decide⟩

theorem witness_ExecFaultsExactlyWhereTabulated :
    PageExists State.reset State.reset.ap ∧ SpecServices State.reset ∧
    Faults (.pushReg16 .ax) (withSp 1) .addressOutOfRange ∧ Faults (.popReg16 .ax) (withSp 0xFFFF) .addressOutOfRange ∧
    Faults (.movReg16Mem16 .ax 0xFFFF) State.reset .addressOutOfRange ∧
    Faults (.intImm8 0x21) State.reset (.unsupportedService 0x21) ∧
    (¬ PageExists { State.reset with ap := 4 } 4 ∧ Operand.mem8 0 ∈ (Instr.movMem8Reg8 0 .al).operands ∧
      Operand.mem16 0 ∈ (Instr.xorReg16Mem16 .ax 0).operands ∧ (Instr.pushReg16 .ax).mnemonic = .push ∧
      (Instr.popReg16 .ax).mnemonic = .pop) :=
  ⟨by decide, by decide, ⟨rfl, by decide⟩, ⟨rfl, by decide⟩, ⟨rfl, by decide⟩, rfl, by decide⟩

theorem witness_StepFaultsAreTheListedKinds :
    State.reset.Inv ∧ faults (step State.reset) (.disassembleDiagnostic 0 0x00 .unknownOpcode) = true ∧
    ((loaded [0x80, 0x00]).Inv ∧ faults (step (loaded [0x80, 0x00])) .addressOutOfRange = true) ∧
    ((loaded [0x90, 0x21]).Inv ∧ faults (step (loaded [0x90, 0x21])) (.unsupportedService 0x21) = true) :=
  ⟨by decide +kernel, by decide, ⟨by decide +kernel, by decide⟩, by decide +kernel, by decide⟩

theorem witness_StepKeepsTheInvariant :
    (loaded [0x10, 0xFF, 0xFF, 0x08]).Inv ∧ ∃ t, step (loaded [0x10, 0xFF, 0xFF, 0x08]) = .next t :=
  ⟨by decide +kernel, ⟨_, rfl⟩⟩

theorem witness_ResetMeetsTheInvariant :
    defaultConfig.wf ∧ ({ defaultConfig with nPages := 65536, sectorSize := 1, sectorCount := 1 } : Config).wf :=
  ⟨defaultConfig_wf, by decide +kernel⟩

theorem witness_EveryCommandKeepsTheInvariant : State.reset.Inv ∧ small.Inv := ⟨by decide +kernel, by decide +kernel⟩

/-- For the eight forms of `mov`, `add`, `sub`, `and`, `or`, `xor`: the spec's tables; a page that exists and the last
admissible 16-bit offset; a tuple of shapes that is no key. -/
theorem witness_TwoOperandRule :
    SpecTables defaultConfig ∧
    (PageExists State.reset State.reset.ap ∧ (0xFFFE : Word) ≠ 0xFFFF ∧ (0 : Word) ≠ 0xFFFF) ∧
    PageExists { State.reset with ap := 3 } 3 ∧ [Operand.imm8 1, .reg8 .al].map Operand.shape ∉ eight :=
  ⟨⟨rfl, rfl⟩, by decide⟩

theorem witness_MovCopiesItsSource :
    SpecTables defaultConfig ∧ PageExists State.reset State.reset.ap ∧ (0xFFFE : Word) ≠ 0xFFFF ∧
    [Operand.mem8 0, .mem8 0].map Operand.shape ∉ eight := ⟨⟨rfl, rfl⟩, by decide⟩
theorem witness_AddWritesSumAndSixFlags :
    SpecTables defaultConfig ∧ PageExists State.reset State.reset.ap ∧ (0xFFFE : Word) ≠ 0xFFFF ∧
    [Operand.mem8 0, .mem8 0].map Operand.shape ∉ eight := ⟨⟨rfl, rfl⟩, by decide⟩
theorem witness_SubWritesDifferenceAndSixFlags :
    SpecTables defaultConfig ∧ PageExists State.reset State.reset.ap ∧ (0xFFFE : Word) ≠ 0xFFFF ∧
    [Operand.mem8 0, .mem8 0].map Operand.shape ∉ eight := ⟨⟨rfl, rfl⟩, by decide⟩
theorem witness_AndWritesBitsAndClearsCarry :
    SpecTables defaultConfig ∧ PageExists State.reset State.reset.ap ∧ (0xFFFE : Word) ≠ 0xFFFF ∧
    [Operand.mem8 0, .mem8 0].map Operand.shape ∉ eight := ⟨⟨rfl, rfl⟩, by decide⟩
theorem witness_OrWritesBitsAndClearsCarry :
    SpecTables defaultConfig ∧ PageExists State.reset State.reset.ap ∧ (0xFFFE : Word) ≠ 0xFFFF ∧
    [Operand.mem8 0, .mem8 0].map Operand.shape ∉ eight := ⟨⟨rfl, rfl⟩, by decide⟩
theorem witness_XorWritesBitsAndClearsCarry :
    SpecTables defaultConfig ∧ PageExists State.reset State.reset.ap ∧ (0xFFFE : Word) ≠ 0xFFFF ∧
    [Operand.mem8 0, .mem8 0].map Operand.shape ∉ eight := ⟨⟨rfl, rfl⟩, by decide⟩

/-- For `not`, `neg`, `inc`, `dec` and the shifts and rotates: they complete in every state; their hypotheses are the spec's tables and
that a tuple of shapes is no key. -/
theorem witness_OneOperandRule :
    SpecTables defaultConfig ∧
    [Operand.mem8 0x300].map Operand.shape ∉ [[Shape.reg8], [.reg16]] ∧
    [Operand.reg16 .ax, .imm8 1].map Operand.shape ∉ [[Shape.reg8], [.reg16]] := ⟨⟨rfl, rfl⟩, by decide⟩

theorem witness_NotInvertsAndKeepsFlags :
    SpecTables defaultConfig ∧ [Operand.mem8 0].map Operand.shape ∉ [[Shape.reg8], [.reg16]] := ⟨⟨rfl, rfl⟩, by decide⟩
theorem witness_NegIsZeroMinusOperand :
    SpecTables defaultConfig ∧ [Operand.mem8 0].map Operand.shape ∉ [[Shape.reg8], [.reg16]] := ⟨⟨rfl, rfl⟩, by decide⟩
theorem witness_IncAddsOneAndKeepsCarry :
    SpecTables defaultConfig ∧ [Operand.mem8 0].map Operand.shape ∉ [[Shape.reg8], [.reg16]] := ⟨⟨rfl, rfl⟩, by decide⟩
theorem witness_DecSubtractsOneAndKeepsCarry :
    SpecTables defaultConfig ∧ [Operand.mem16 0].map Operand.shape ∉ [[Shape.reg8], [.reg16]] := ⟨⟨rfl, rfl⟩, by decide⟩
theorem witness_ShlMovesTopBitToCarry :
    SpecTables defaultConfig ∧ [Operand.reg8 .al, .imm8 1].map Operand.shape ∉ [[Shape.reg8], [.reg16]] := ⟨⟨rfl, rfl⟩, by decide⟩
theorem witness_ShrMovesLowBitToCarry :
    SpecTables defaultConfig ∧ [Operand.reg8 .al, .imm8 1].map Operand.shape ∉ [[Shape.reg8], [.reg16]] := ⟨⟨rfl, rfl⟩, by decide⟩
theorem witness_RolRotatesOperandBitsOnly :
    SpecTables defaultConfig ∧ [Operand.imm8 1].map Operand.shape ∉ [[Shape.reg8], [.reg16]] := ⟨⟨rfl, rfl⟩, by decide⟩
theorem witness_RorRotatesOperandBitsOnly :
    SpecTables defaultConfig ∧ ([] : List Operand).map Operand.shape ∉ [[Shape.reg8], [.reg16]] := ⟨⟨rfl, rfl⟩, by decide⟩

theorem witness_PushStoresBelowStackPointer :
    SpecTables defaultConfig ∧
    (PageExists (withSp 2) (withSp 2).ap ∧ 2 ≤ (readReg16 (withSp 2) .sp).toNat) ∧
    (PageExists (withSp 0xFFFF) (withSp 0xFFFF).ap ∧ 2 ≤ (readReg16 (withSp 0xFFFF) .sp).toNat) ∧
    (readReg16 (withSp 1) .sp).toNat < 2 ∧ (readReg16 (withSp 0) .sp).toNat < 2 ∧
    [Operand.reg8 .al].map Operand.shape ∉ [[Shape.reg16]] := ⟨⟨rfl, rfl⟩, by decide⟩

theorem witness_PopLoadsAtStackPointer :
    SpecTables defaultConfig ∧
    (PageExists (withSp 0xFFFE) (withSp 0xFFFE).ap ∧ readReg16 (withSp 0xFFFE) .sp ≠ 0xFFFF) ∧
    (PageExists (withSp 0) (withSp 0).ap ∧ readReg16 (withSp 0) .sp ≠ 0xFFFF) ∧
    readReg16 (withSp 0xFFFF) .sp = 0xFFFF ∧ (Reg16.ax ≠ .sp ∧ Reg16.bx ≠ .ax ∧ Reg16.bx ≠ .sp) ∧
    [Operand.reg8 .al].map Operand.shape ∉ [[Shape.reg16]] := ⟨⟨rfl, rfl⟩, by decide⟩

theorem witness_IntSelectsServiceByOperand :
    SpecTables defaultConfig ∧
    SpecServices State.reset ∧ ((0x21 : Byte) ≠ 0x09 ∧ (0x21 : Byte) ≠ 0x0A ∧ (0x21 : Byte) ≠ 0x20) ∧
    ((0x00 : Byte) ≠ 0x09 ∧ (0x00 : Byte) ≠ 0x0A ∧ (0x00 : Byte) ≠ 0x20) ∧
    (∃ t, exec (.intImm8 0x20) State.reset = .next t) ∧ (0x20 : Byte) ≠ 0x0A ∧
    [Operand.imm16 0x20].map Operand.shape ∉ [[Shape.imm8]] :=
  ⟨⟨rfl, rfl⟩, by decide, by decide, by decide, ⟨_, rfl⟩, by decide, by decide⟩

theorem witness_PrintEmitsStringUpToTerminator :
    SpecServices (withBxDx 0 0xFFFF) ∧
    (let s : State := { withBxDx 3 0xFFFF with mem := [(0x3FFFF, 0x24)] }
     PageExists s (readReg16 s .bx) ∧ (readReg16 s .dx).toNat + 0 ≤ 0xFFFF ∧ stringByte s 0 = 0x24 ∧
       ∀ j, j < 0 → stringByte s j ≠ 0x24) ∧
    (let s : State := { withBxDx 0 0xFFFD with mem := [(0xFFFD, 0x48), (0xFFFE, 0x49), (0xFFFF, 0x24)] }
     PageExists s (readReg16 s .bx) ∧ (readReg16 s .dx).toNat + 2 ≤ 0xFFFF ∧ stringByte s 2 = 0x24 ∧
       ∀ j, j < 2 → stringByte s j ≠ 0x24) ∧
    ¬ PageExists (withBxDx 4 0) (readReg16 (withBxDx 4 0) .bx) ∧
    (∀ k, (readReg16 (withBxDx 0 0xFFFF) .dx).toNat + k ≤ 0xFFFF → stringByte (withBxDx 0 0xFFFF) k ≠ 0x24) := by
  refine ⟨by decide, by decide, by decide, by decide, fun k hk => ?_⟩
  have h0 : (readReg16 (withBxDx 0 0xFFFF) .dx).toNat = 0xFFFF := by decide
  obtain rfl : k = 0 := by omega
  decide

theorem witness_ReadLineStoresLineAndTerminator :
    SpecServices State.reset ∧
    (let s : State := { withBxDx 3 0xFFFE with hostLines := [[0x61]] }
     PageExists s (readReg16 s .bx) ∧ s.hostLines = [0x61] :: [] ∧
       (readReg16 s .dx).toNat + (drawLine s).1.length ≤ 0xFFFF) ∧
    (let s : State := { withBxDx 0 0xFFFF with hostLines := [[0x61]] }
     PageExists s (readReg16 s .bx) ∧ 0xFFFF < (readReg16 s .dx).toNat + (drawLine s).1.length) ∧
    (PageExists (withBxDx 0 0) (readReg16 (withBxDx 0 0) .bx) ∧ (withBxDx 0 0).hostLines = []) ∧
    ¬ PageExists (withBxDx 4 0) (readReg16 (withBxDx 4 0) .bx) := by decide

theorem witness_TerminateOnlyTellsTheHost :
    SpecServices (loaded [0x90, 0x20]) ∧ PageExists (loaded [0x90, 0x20]) (loaded [0x90, 0x20]).ap ∧
    decode defaultConfig (fetchWindow (loaded [0x90, 0x20]) (loaded [0x90, 0x20]).ap (loaded [0x90, 0x20]).ip) =
      .ok (.intImm8 0x20, 2) := by decide +kernel

theorem witness_UnwrittenRegistersKeepTheirValues :
    (∃ t, exec (.movReg8Reg8 .ah .al) State.reset = .next t) ∧
    (Reg16.bx ∉ writtenRegs (.movReg8Reg8 .ah .al) ∧ aliasDest (.movReg8Reg8 .ah .al) = some .ah ∧ Reg8.al ≠ .ah) ∧
    ((∃ t, exec (.movMem8Reg8 0xFFFF .al) State.reset = .next t) ∧ writtenRegs (.movMem8Reg8 0xFFFF .al) = []) ∧
    (Reg16.ax ∉ writtenRegs (.pushReg16 .ax) ∧ Reg16.bx ∉ writtenRegs (.popReg16 .ax)) :=
  ⟨⟨_, rfl⟩, by decide, ⟨⟨_, rfl⟩, by decide⟩, by decide⟩

theorem witness_UnwrittenFlagsKeepTheirValues :
    ((∃ t, exec (.incReg8 .al) State.reset = .next t) ∧ Flag.cf ∉ flagsWritten (Instr.incReg8 .al).mnemonic) ∧
    ((∃ t, exec (.andReg8Reg8 .al .al) State.reset = .next t) ∧ (Instr.andReg8Reg8 .al .al).mnemonic = .and) ∧
    faults (step State.reset) (.disassembleDiagnostic 0 0x00 .unknownOpcode) = true ∧
    faults (exec (.pushReg16 .ax) State.reset) .addressOutOfRange = true ∧
    Command.diskSave ∈ [Command.setPage 0, .diskSave] :=
  ⟨⟨⟨_, rfl⟩, by decide⟩, ⟨⟨_, rfl⟩, by decide⟩, by decide, by decide, by decide⟩

theorem witness_BytesOutsideTheStoreKeepTheirValues :
    ((∃ t, exec (.movMem16Reg16 0xFFFE .ax) State.reset = .next t) ∧
      storedTo (.movMem16Reg16 0xFFFE .ax) State.reset = some (0xFFFE, 2)) ∧
    ((∃ t, exec (.pushReg16 .ax) (withSp 2) = .next t) ∧ storedTo (.pushReg16 .ax) (withSp 2) = some (0, 2)) ∧
    ((∃ t, exec (.incReg8 .al) State.reset = .next t) ∧ storedTo (.incReg8 .al) State.reset = none) ∧
    storedTo (.intImm8 0x0A) { withBxDx 0 0x310 with hostLines := [[0x6F, 0x6B]] } = some (0x310, 3) :=
  ⟨⟨⟨_, rfl⟩, by decide⟩, ⟨⟨_, rfl⟩, by decide⟩, ⟨⟨_, rfl⟩, by decide⟩, by decide⟩

theorem witness_InstructionsLeaveControlStateAndDisk :
    ((∃ t, exec (.incReg8 .al) State.reset = .next t) ∧ (Instr.incReg8 .al).mnemonic ≠ .int) ∧
    ∃ t, step (loaded [0x74, 0x08]) = .next t :=
  ⟨⟨⟨_, rfl⟩, by decide⟩, ⟨_, rfl⟩⟩

theorem witness_AliasesAreViewsOfTheirRegister : Reg8.al ≠ .ah ∧ Reg8.bl ≠ .ah := by decide

theorem witness_RegisterFileCommandsReadBackWrites :
    (regOfName State.reset.cfg ['s', 'P'] = some (.reg16 .sp) ∧ regOfName State.reset.cfg ['D', 'I'] = some (.reg16 .di) ∧
      Reg16.ax ≠ .sp) ∧
    (regOfName State.reset.cfg ['a', 'h'] = some (.reg8 .ah) ∧ Reg8.al ≠ .ah ∧ Reg16.bx ≠ Reg8.ah.parent) ∧
    (Flag.ofName ['C', 'F'] = some .cf ∧ Flag.of ≠ .cf) ∧ State.reset.cfg.tablesWf ∧
    ((∀ r, regOfName State.reset.cfg ['Z', 'X'] ≠ some (.reg16 r)) ∧
      ∀ r, regOfName State.reset.cfg ['A', 'L'] ≠ some (.reg16 r)) ∧
    ((∀ r, regOfName State.reset.cfg ['Z', 'X'] ≠ some (.reg8 r)) ∧
      ∀ r, regOfName State.reset.cfg ['S', 'P'] ≠ some (.reg8 r)) ∧
    Flag.ofName ['T', 'F'] = none := by
  have hz : regOfName State.reset.cfg ['Z', 'X'] = none := by decide
  have hl : regOfName State.reset.cfg ['A', 'L'] = some (.reg8 .al) := by decide
  have hs : regOfName State.reset.cfg ['S', 'P'] = some (.reg16 .sp) := by decide
  exact ⟨by decide, by decide, by decide, ⟨specRegTable_wf, specOpTable_wf⟩, ⟨by simp [hz], by simp [hl]⟩,
    ⟨by simp [hz], by simp [hs]⟩, by decide⟩

theorem witness_ResetClearsTheFlags : defaultConfig.reset = specReset := rfl

theorem witness_ResetZeroesEverythingElse :
    defaultConfig.wf ∧ defaultConfig.reset = specReset ∧ SpecTables defaultConfig :=
  ⟨defaultConfig_wf, rfl, rfl, rfl⟩

theorem witness_LogicalAddressesNameDistinctBytes :
    defaultConfig.sizesWf ∧ 0 < defaultConfig.memSize ∧ 0x3FFFF < defaultConfig.memSize := by decide

theorem witness_MemoryWritesAreReadBack :
    (PageExists State.reset 3 ∧ (0xFFFE : Word).toNat + 1 ≤ 0xFFFF) ∧ ¬ PageExists State.reset 4 ∧
    ¬ (PageExists State.reset 0 ∧ (0xFFFF : Word).toNat + 2 - 1 ≤ 0xFFFF) := by decide

theorem names_full (s : State) (p o : Word) : Names s (.full p o) p o := .inl rfl

theorem names_offset (s : State) (o : Word) : Names s (.offset o) s.ap o := .inr ⟨rfl, rfl⟩

theorem witness_PokeStoresAndPeekReads :
    (Names State.reset (.full 3 0xFFFF) 3 0xFFFF ∧ Names State.reset (.offset 0xFFFE) State.reset.ap 0xFFFE) ∧
    (PageExists State.reset 3 ∧ phys 3 0xFFFE ≠ phys 3 0xFFFF) ∧
    ((0xFFFE : Word).toNat + ([0x41, 0x42] : List Byte).length ≤ 0xFFFF + 1 ∧
      0xFFFF + 1 < (0xFFFF : Word).toNat + ([0x41, 0x42] : List Byte).length) ∧
    ¬ PageExists State.reset 4 :=
  ⟨⟨names_full _ _ _, names_offset _ _⟩, by decide⟩

theorem witness_FillCyclesThePatternOverTheRange :
    (Names State.reset (.full 3 0xFFFF) 3 0xFFFF ∧ Names State.reset (.offset 0x100) State.reset.ap 0x100) ∧
    (PageExists State.reset 0 ∧ (0x100 : Word).toNat ≤ (0x12C : Word).toNat) ∧
    (PageExists State.reset 3 ∧ (0xFFFF : Word).toNat ≤ (0xFFFF : Word).toNat) ∧
    (¬ PageExists State.reset 4 ∨ (1 : Word).toNat < (0 : Word).toNat) ∧
    (¬ PageExists State.reset 0 ∨ (0x1FF : Word).toNat < (0x200 : Word).toNat) ∧
    (PageExists State.reset ((none : Option Word).getD State.reset.ap) ∧ 0xFFFF ≤ min 0x12345 0xFFFF) ∧
    (¬ PageExists State.reset ((some 4 : Option Word).getD State.reset.ap) ∧ min 0x12345 0xFFFF < 0x10000) :=
  ⟨⟨names_full _ _ _, names_offset _ _⟩, by decide⟩

theorem witness_SearchFindsExactlyTheMatches :
    (Names State.reset (.full 3 0xFFFF) 3 0xFFFF ∧ Names State.reset (.offset 0x100) State.reset.ap 0x100) ∧ PageExists State.reset 0 ∧ ¬ PageExists State.reset 4 :=
  ⟨⟨names_full _ _ _, names_offset _ _⟩, by decide⟩

theorem witness_CompareListsExactlyTheDifferences :
    (Names State.reset (.full 1 0xFFF0) 1 0xFFF0 ∧ Names State.reset (.offset 0x100) State.reset.ap 0x100) ∧
    (PageExists State.reset 0 ∧ PageExists State.reset 1 ∧ (0x100 : Word).toNat ≤ (0x10F : Word).toNat ∧
      (0xFFF0 : Word).toNat + ((0x10F : Word).toNat - (0x100 : Word).toNat + 1) - 1 ≤ 0xFFFF) ∧
    ¬ PageExists State.reset 4 ∧ (0x1FF : Word).toNat < (0x200 : Word).toNat ∧
    0xFFFF < (0xFFF1 : Word).toNat + ((0x10F : Word).toNat - (0x100 : Word).toNat + 1) - 1 :=
  ⟨⟨names_full _ _ _, names_offset _ _⟩, by decide⟩

theorem witness_MoveCopiesOrRefusesOverlap :
    (Names State.reset (.full 0 0xFFF0) 0 0xFFF0 ∧ Names State.reset (.offset 0x100) State.reset.ap 0x100) ∧
    (PageExists State.reset 0 ∧ (0x100 : Word).toNat ≤ (0x10F : Word).toNat ∧
      (0xFFF0 : Word).toNat + ((0x10F : Word).toNat - (0x100 : Word).toNat + 1) - 1 ≤ 0xFFFF) ∧
    (∃ a, phys 0 0x100 ≤ a ∧ a < phys 0 0x100 + 16 ∧ phys 0 0x10F ≤ a ∧ a < phys 0 0x10F + 16) ∧
    (¬ ∃ a, phys 0 0x100 ≤ a ∧ a < phys 0 0x100 + 16 ∧ phys 0 0x110 ≤ a ∧ a < phys 0 0x110 + 16) ∧
    ¬ PageExists State.reset 4 ∧ (0x1FF : Word).toNat < (0x200 : Word).toNat ∧
    0xFFFF < (0xFFF1 : Word).toNat + ((0x10F : Word).toNat - (0x100 : Word).toNat + 1) - 1 := by
  refine ⟨⟨names_full _ _ _, names_offset _ _⟩, by decide, ⟨0x10F, by decide⟩, ?_, by decide, by decide, by decide⟩
  have h1 : phys 0 0x100 = 0x100 := by decide
  have h2 : phys 0 0x110 = 0x110 := by decide
  rintro ⟨a, _, h, h', _⟩
  omega

theorem witness_SetPageSelectsOnlyExistingPages :
    (PageExists State.reset 3 ∧ ¬ PageExists State.reset 4) ∧
    (let s : State := { State.reset with mem := storeOf 0x3FFFE [0x74, 0x08], ip := 0xFFFE }
     decode s.cfg (readBytes s.mem (phys 3 s.ip) (min 4 (65536 - s.ip.toNat))) = .ok (.incReg8 .al, 2) ∧
       next (exec (.incReg8 .al) { s with ap := 3 }) (fun _ => true) = true) ∧
    (0xFFFE : Word) ≠ 0xFFFF ∧ 2 ≤ (readReg16 (withSp 2) .sp).toNat ∧ readReg16 (withSp 0xFFFE) .sp ≠ 0xFFFF ∧
    (0xFFFC : Word).toNat + ([0x17, 0x00, 0x34, 0x12] : List Byte).length ≤ 0xFFFF + 1 := by decide

theorem witness_CodeStoreAdvancesTheCursor :
    (let s : State := { State.reset with cur := 0xFFFC }
     PageExists s s.ap ∧ s.cur.toNat + ([0x17, 0x00, 0x34, 0x12] : List Byte).length ≤ 0xFFFF + 1) ∧
    (let s : State := { State.reset with cur := 0xFFFD }
     0xFFFF + 1 < s.cur.toNat + ([0x17, 0x00, 0x34, 0x12] : List Byte).length) ∧
    assemble defaultConfig ['f', 'o', 'o'] = .error (.asmUnknownMnemonic ['f', 'o', 'o']) ∧
    assemble defaultConfig ['i', 'n', 't', ' ', '3', '2'] = .ok [0x90, 0x20] := by decide

theorem witness_DiskLoadZeroFillsAndIgnoresExcess :
    7 < small.cfg.diskSize ∧ small.cfg.diskSize ≤ 8 ∧ ((7 : Nat) ≤ 7 ∧ (6 : Nat) < 7) := by decide

theorem witness_DiskTransfersMoveWholeSectors :
    (Names small (.full 3 0xFFFF) 3 0xFFFF ∧ Names small (.offset 0x200) small.ap 0x200) ∧
    (3 + 1 ≤ small.cfg.sectorCount ∧ PageExists small 3 ∧
      phys 3 0xFFFE + 1 * small.cfg.sectorSize ≤ small.cfg.nPages * 65536) ∧
    (4 + 0 ≤ small.cfg.sectorCount ∧ PageExists small 3 ∧
      phys 3 0xFFFF + 0 * small.cfg.sectorSize ≤ small.cfg.nPages * 65536) ∧
    small.cfg.sectorCount < 5 + 0 ∧ ¬ PageExists small 4 ∧
    small.cfg.nPages * 65536 < phys 3 0xFFFF + 1 * small.cfg.sectorSize :=
  ⟨⟨names_full _ _ _, names_offset _ _⟩, by decide⟩

theorem witness_DiskRoundTripReturnsTheBytes :
    (∃ t, perform (.diskWrite (.offset 0x200) 3 1) small = .next (.unit, t) ∧
      (∃ u, perform (.diskRead (.full 1 0xFFFF) 3 1) t = .next (.unit, u)) ∧
      Names small (.offset 0x200) 0 0x200 ∧ Names t (.full 1 0xFFFF) 1 0xFFFF) ∧
    1 < 1 * small.cfg.sectorSize ∧ phys 0 0x200 + 1 * small.cfg.sectorSize ≤ phys 1 0xFFFF :=
  ⟨⟨_, rfl, ⟨_, rfl⟩, .inr ⟨rfl, rfl⟩, .inl rfl⟩, by decide, by decide⟩

end Sys2Proof.Tests
end

section
/-! PROOFS. Words as pairs of bytes, in numbers, and the register file as the alias names and the register commands see it
(R13 to R16). -/

namespace Sys2Proof.Machine

/-! ### Bytes of a word, in numbers -/

theorem toNat_lowByte (v : Word) : (lowByte v).toNat = v.toNat % 256 := by
  simp [lowByte]

theorem toNat_highByte (v : Word) : (highByte v).toNat = v.toNat / 256 := by
  have := v.isLt
  simp [highByte, Nat.shiftRight_eq_div_pow]
  omega

theorem toNat_wordOf (l h : Byte) : (wordOf l h).toNat = h.toNat * 256 + l.toNat := by
  have := l.isLt
  simp only [wordOf, BitVec.toNat_append]
  rw [← Nat.shiftLeft_add_eq_or_of_lt this, Nat.shiftLeft_eq]

theorem lowByte_eq_ofNat (v : Word) : lowByte v = BitVec.ofNat 8 (v.toNat % 256) := by
  apply BitVec.eq_of_toNat_eq
  rw [toNat_lowByte, BitVec.toNat_ofNat]
  omega

theorem highByte_eq_ofNat (v : Word) : highByte v = BitVec.ofNat 8 (v.toNat / 256) := by
  have := v.isLt
  apply BitVec.eq_of_toNat_eq
  rw [toNat_highByte, BitVec.toNat_ofNat]
  omega

/-! ### Registers and their bytes -/

theorem readReg16_writeReg16 (s : State) (r q : Reg16) (v : Word) :
    readReg16 (writeReg16 s r v) q = if q = r then v else readReg16 s q := by
  split
  · next h => rw [h, readReg16_writeReg16_same]
  · next h => exact readReg16_writeReg16_other s v h

theorem readReg8_writeReg8 (s : State) (r q : Reg8) (v : Byte) :
    readReg8 (writeReg8 s r v) q = if q = r then v else readReg8 s q := by
  split
  · next h => rw [h, readReg8_writeReg8_same]
  · next h => exact readReg8_writeReg8_other s v h

theorem readFlag_writeFlag (s : State) (f g : Flag) (b : Bool) :
    readFlag (writeFlag s f b) g = if g = f then b else readFlag s g := by
  split
  · next h => rw [h, readFlag_writeFlag_same]
  · next h => exact readFlag_writeFlag_other s b h

/-- The value a register has after one of its bytes is written (R14). -/
def withHalf (w : Word) (h : Half) (v : Byte) : Word :=
  match h with
  | .lo => BitVec.ofNat 16 (w.toNat / 256 * 256 + v.toNat)
  | .hi => BitVec.ofNat 16 (v.toNat * 256 + w.toNat % 256)

theorem toNat_withHalf_lo (w : Word) (v : Byte) : (withHalf w .lo v).toNat = w.toNat / 256 * 256 + v.toNat := by
  rw [withHalf, BitVec.toNat_ofNat]; omega

theorem toNat_withHalf_hi (w : Word) (v : Byte) : (withHalf w .hi v).toNat = v.toNat * 256 + w.toNat % 256 := by
  rw [withHalf, BitVec.toNat_ofNat]; omega

theorem writeHalf_eq_writeReg16 (s : State) (r : Reg16) (h : Half) (v : Byte) :
    writeHalf s r h v = writeReg16 s r (withHalf (readReg16 s r) h v) := by
  cases h <;> refine congrArg (writeReg16 s r) (BitVec.eq_of_toNat_eq ?_)
  · rw [toNat_wordOf, toNat_highByte, toNat_withHalf_lo]
  · rw [toNat_wordOf, toNat_lowByte, toNat_withHalf_hi]

/-- The two aliases of a register just written are the two bytes of its value (R13). -/
theorem wordOf_halves_writeReg16 (s : State) (r : Reg16) (v : Word) :
    wordOf (readHalf (writeReg16 s r v) r .lo) (readHalf (writeReg16 s r v) r .hi) = v := by
  simp [readHalf]

/-- Nothing but the register file differs after a register is written. -/
theorem writeReg16_eq_with_regs (s : State) (r : Reg16) (v : Word) :
    writeReg16 s r v = { s with regs := (writeReg16 s r v).regs } := by cases r <;> rfl

theorem writeHalf_eq_with_regs (s : State) (r : Reg16) (h : Half) (v : Byte) :
    writeHalf s r h v = { s with regs := (writeHalf s r h v).regs } := by
  rw [writeHalf_eq_writeReg16]; exact writeReg16_eq_with_regs ..

theorem writeFlag_eq_with_flags (s : State) (f : Flag) (b : Bool) :
    writeFlag s f b = { s with flags := (writeFlag s f b).flags } := by cases f <;> rfl

/-! ### The register, byte and flag commands (R16) -/

section Named
variable {s : State} {n : Text}

theorem perform_regGet {r : Reg16} (h : regOfName s.cfg n = some (.reg16 r)) :
    perform (.regGet n) s = .next (.word (readReg16 s r), s) := by
  simp [perform, answer, lookupReg16_ok h]

theorem perform_regSet {r : Reg16} (h : regOfName s.cfg n = some (.reg16 r)) (v : Word) :
    perform (.regSet n v) s = .next (.unit, writeReg16 s r v) := by
  simp [perform, change, lookupReg16_ok h, Except.map]

theorem perform_regbGet {b : ByteName} {r : Reg16} {k : Half} (h : lookupByte s.cfg b = .ok (r, k)) :
    perform (.regbGet b) s = .next (.byte (readHalf s r k), s) := by
  simp [perform, answer, h]

theorem perform_regbGet_lo {r : Reg16} (h : regOfName s.cfg n = some (.reg16 r)) :
    perform (.regbGet (.half n .lo)) s = .next (.byte (BitVec.ofNat 8 ((readReg16 s r).toNat % 256)), s) := by
  rw [perform_regbGet (lookupByte_half_ok h .lo), readHalf, lowByte_eq_ofNat]

theorem perform_regbGet_hi {r : Reg16} (h : regOfName s.cfg n = some (.reg16 r)) :
    perform (.regbGet (.half n .hi)) s = .next (.byte (BitVec.ofNat 8 ((readReg16 s r).toNat / 256)), s) := by
  rw [perform_regbGet (lookupByte_half_ok h .hi), readHalf, highByte_eq_ofNat]

theorem perform_regbGet_alias {r : Reg8} (h : regOfName s.cfg n = some (.reg8 r)) :
    perform (.regbGet (.alias8 n)) s = .next (.byte (readReg8 s r), s) :=
  perform_regbGet (lookupByte_alias_ok h)

theorem perform_regbSet {b : ByteName} {r : Reg16} {k : Half} (h : lookupByte s.cfg b = .ok (r, k)) (v : Byte) :
    perform (.regbSet b v) s = .next (.unit, writeHalf s r k v) := by
  simp [perform, change, h, Except.map]

theorem perform_regbSet_alias {r : Reg8} (h : regOfName s.cfg n = some (.reg8 r)) (v : Byte) :
    perform (.regbSet (.alias8 n) v) s = .next (.unit, writeReg8 s r v) :=
  perform_regbSet (lookupByte_alias_ok h) v

theorem lookupFlag_ok {f : Flag} (h : Flag.ofName n = some f) : lookupFlag n = .ok f := by
  simp [lookupFlag, h]

theorem perform_flagGet {f : Flag} (h : Flag.ofName n = some f) :
    perform (.flagGet n) s = .next (.bit (readFlag s f), s) := by
  simp [perform, answer, lookupFlag_ok h]

theorem perform_flagSet {f : Flag} (h : Flag.ofName n = some f) (b : Bool) :
    perform (.flagSet n b) s = .next (.unit, writeFlag s f b) := by
  simp [perform, change, lookupFlag_ok h, Except.map]

theorem perform_regb_error {b : ByteName} {e : Err} (h : lookupByte s.cfg b = .error e) (v : Byte) :
    perform (.regbGet b) s = .fault e ∧ perform (.regbSet b v) s = .fault e := by
  simp [perform, answer, change, h, Except.map]

theorem perform_reg_error (h : ∀ r, regOfName s.cfg n ≠ some (.reg16 r)) (v : Word) :
    perform (.regGet n) s = .fault (.unknownRegister n) ∧ perform (.regSet n v) s = .fault (.unknownRegister n) := by
  simp [perform, answer, change, lookupReg16_error h, Except.map]

theorem perform_flag_error (h : Flag.ofName n = none) (b : Bool) :
    perform (.flagGet n) s = .fault (.unknownFlag n) ∧ perform (.flagSet n b) s = .fault (.unknownFlag n) := by
  simp [perform, answer, change, lookupFlag, h, Except.map]

theorem toNat_readReg16_writeHalf (r q : Reg16) (k : Half) (v : Byte) :
    (readReg16 (writeHalf s r k v) q).toNat =
      if q = r then (withHalf (readReg16 s r) k v).toNat else (readReg16 s q).toNat := by
  rw [writeHalf_eq_writeReg16, readReg16_writeReg16]
  split <;> rfl

end Named

end Sys2Proof.Machine

namespace Sys2Proof.Proofs

open Sys2Proof.Machine Sys2Proof.Spec

/-- Settles O44: an alias is a byte of its register, so each part is the law of that byte. -/
theorem aliasesAreViewsOfTheirRegister : Obligations.AliasesAreViewsOfTheirRegister := by
  have low (s : State) (r : Reg16) : (readHalf s r .lo).toNat = (readReg16 s r).toNat % 256 := toNat_lowByte _
  have high (s : State) (r : Reg16) : (readHalf s r .hi).toNat = (readReg16 s r).toNat / 256 := toNat_highByte _
  refine ⟨fun s => ?_, fun s r v => ⟨?_, readReg8_writeReg8_same s r v, fun q hq => readReg8_writeReg8_other s v hq⟩,
    fun s v => ?_⟩
  · exact ⟨low s .ax, high s .ax, low s .bx, high s .bx, low s .cx, high s .cx, low s .dx, high s .dx⟩
  · rw [writeReg8, writeHalf_eq_writeReg16]
    cases r <;> rfl
  · have both := fun r => wordOf_halves_writeReg16 s r v
    exact ⟨both .ax, both .bx, both .cx, both .dx⟩

/-- Settles O45: what a command answers for a known name, and then the law of the cell that name stands for. -/
theorem registerFileCommandsReadBackWrites : Obligations.RegisterFileCommandsReadBackWrites := by
  refine ⟨fun s n r h => ?_, fun s n r h => ?_, fun s n f h => ?_, fun s hwf => ?_, fun s => ⟨rfl, fun o => rfl⟩,
    fun s n v k b h => ?_, fun s n v h => perform_regb_error (lookupByte_alias_error h) v,
    fun s n b h => perform_flag_error h b⟩
  · refine ⟨perform_regGet h, fun v => ?_, perform_regbGet_lo h, perform_regbGet_hi h, fun v => ?_, fun v => ?_⟩
    · have after : regOfName (writeReg16 s r v).cfg n = some (.reg16 r) := by rwa [writeReg16_cfg]
      exact ⟨_, perform_regSet h v, writeReg16_eq_with_regs s r v, fun q => readReg16_writeReg16 s r q v,
        by simpa using perform_regGet after, by simpa using perform_regbGet_lo after,
        by simpa using perform_regbGet_hi after⟩
    · exact ⟨_, perform_regbSet (lookupByte_half_ok h .lo) v, writeHalf_eq_with_regs ..,
        fun q => by rw [toNat_readReg16_writeHalf, toNat_withHalf_lo]⟩
    · exact ⟨_, perform_regbSet (lookupByte_half_ok h .hi) v, writeHalf_eq_with_regs ..,
        fun q => by rw [toNat_readReg16_writeHalf, toNat_withHalf_hi]⟩
  · refine ⟨perform_regbGet_alias h, fun v => ?_⟩
    have after : regOfName (writeReg8 s r v).cfg n = some (.reg8 r) := by rwa [writeReg8_cfg]
    exact ⟨_, perform_regbSet_alias h v, writeHalf_eq_with_regs .., fun q => readReg8_writeReg8 s r q v,
      fun q hq => readReg16_writeReg8_other s v hq, by simpa using perform_regbGet_alias after⟩
  · refine ⟨perform_flagGet h, fun b => ?_⟩
    exact ⟨_, perform_flagSet h b, writeFlag_eq_with_flags s f b, fun g => readFlag_writeFlag s f g b,
      by simpa using perform_flagGet (s := writeFlag s f b) h⟩
  · exact ⟨fun r => regOfName_text hwf.1 (.reg16 r), fun r => regOfName_text hwf.1 (.reg8 r), Flag.ofName_name⟩
  · obtain ⟨hget, hset⟩ := perform_reg_error h v
    obtain ⟨hbget, hbset⟩ := perform_regb_error (lookupByte_half_error h k) b
    exact ⟨hget, hset, hbget, hbset⟩

end Sys2Proof.Proofs
end

section
/-! PROOFS. Frames of the executor and of STEP: what an instruction, a step and a command leave alone, said once each. -/

namespace Sys2Proof.Machine

open Sys2Proof.Spec

/-! ### What an instruction stores in memory -/

/-- Memory after is memory before with some bytes, perhaps none, stored within its size. -/
def MemStored (s t : State) : Prop :=
  ∃ a bs, a + bs.length ≤ s.cfg.memSize ∧ t.mem = writeBytes s.mem a bs

theorem memStored_of_mem_eq {s t : State} (h : t.mem = s.mem) : MemStored s t :=
  ⟨0, [], Nat.zero_le _, h⟩

theorem memStored_in_page {s t : State} {p o : Word} {bs : List Byte} (hp : p.toNat < s.cfg.nPages)
    (ho : o.toNat + bs.length ≤ pageSize) (h : t.mem = writeBytes s.mem (phys p o) bs) : MemStored s t :=
  ⟨phys p o, bs, phys_add_le_memSize hp ho, h⟩

theorem WroteFirst.memStored {i : Instr} {s t : State} (h : WroteFirst i s t) : MemStored s t := by
  obtain ⟨g, -, ⟨d, v, -, -, rfl⟩ | ⟨d, v, -, -, rfl⟩ | ⟨m, v, -, -, hp, rfl⟩ | ⟨m, v, -, -, hp, hm, rfl⟩⟩ := h
  · exact memStored_of_mem_eq (by simp)
  · exact memStored_of_mem_eq (by simp)
  · exact memStored_in_page (o := m) (bs := [v]) hp (by simp only [List.length_singleton, pageSize]; omega) rfl
  · exact memStored_in_page hp (by simp only [wordBytes, List.length_cons, List.length_nil, pageSize]; omega) rfl

theorem pushWord_memStored {v : Word} {s t : State} (h : pushWord v s = .next t) : MemStored s t := by
  obtain ⟨hsp, hp, rfl⟩ := pushWord_next.mp h
  refine memStored_in_page (o := readReg16 s .sp - 2) (bs := wordBytes v) hp ?_ (by simp)
  simp only [wordBytes, List.length_cons, List.length_nil, pageSize]
  bv_omega

/-- Drawing a line moves neither the buffer nor memory: the line and the terminator go where the registers point. -/
theorem storeLine_drawLine_mem (s : State) (l : List Byte) :
    (storeLine (drawLine s).2 l).mem =
      writeBytes s.mem (phys (servicePage s) (serviceOffset s)) (l ++ [s.cfg.services.terminator]) := by
  simp [storeLine, servicePage, serviceOffset, readReg16_congr (drawLine_regs s)]

theorem ServiceDone.memStored {n : Byte} {s t : State} (h : ServiceDone n s t) : MemStored s t := by
  obtain ⟨-, b, rfl⟩ | ⟨-, -, hp, ho, rfl⟩ | ⟨-, -, -, rfl⟩ := h
  · exact memStored_of_mem_eq rfl
  · refine memStored_in_page hp ?_ (storeLine_drawLine_mem s (drawLine s).1)
    rw [List.length_append, List.length_singleton, pageSize]; omega
  · exact memStored_of_mem_eq rfl

theorem exec_memStored {i : Instr} {s t : State} (h : exec i s = .next t) : MemStored s t := by
  obtain ⟨-, -, -, hw⟩ | ⟨r, -, hpush⟩ | ⟨d, -, hpop⟩ | ⟨n, -, hint⟩ := exec_next h
  · exact hw.memStored
  · exact pushWord_memStored hpush
  · obtain ⟨-, -, rfl⟩ := execPopReg16_next.mp hpop
    exact memStored_of_mem_eq (by simp)
  · exact hint.memStored

/-! ### Control state, disk and configuration (R20, R22, R23, R240) -/

/-- IP, AP, CUR, the disk and the configuration are as before. -/
structure ControlKept (s t : State) : Prop where
  ip : t.ip = s.ip
  ap : t.ap = s.ap
  cur : t.cur = s.cur
  disk : t.disk = s.disk
  cfg : t.cfg = s.cfg

/-- The events, the host's lines and the draw counter are as before. -/
structure HostKept (s t : State) : Prop where
  events : t.events = s.events
  hostLines : t.hostLines = s.hostLines
  draws : t.draws = s.draws

theorem WroteFirst.kept {i : Instr} {s t : State} (h : WroteFirst i s t) : ControlKept s t ∧ HostKept s t := by
  obtain ⟨g, -, ⟨d, v, -, -, rfl⟩ | ⟨d, v, -, -, rfl⟩ | ⟨m, v, -, -, -, rfl⟩ | ⟨m, v, -, -, -, -, rfl⟩⟩ := h <;>
    constructor <;> constructor <;> simp

theorem ServiceDone.controlKept {n : Byte} {s t : State} (h : ServiceDone n s t) : ControlKept s t := by
  obtain ⟨-, b, rfl⟩ | ⟨-, -, -, -, rfl⟩ | ⟨-, -, -, rfl⟩ := h <;> constructor <;> simp

theorem ServiceDone.regs_flags {n : Byte} {s t : State} (h : ServiceDone n s t) :
    t.regs = s.regs ∧ t.flags = s.flags := by
  obtain ⟨-, b, rfl⟩ | ⟨-, -, -, -, rfl⟩ | ⟨-, -, -, rfl⟩ := h <;> simp

/-- The frame of every instruction; `int` alone reaches the host. -/
theorem exec_kept {i : Instr} {s t : State} (h : exec i s = .next t) :
    ControlKept s t ∧ (i.mnemonic ≠ .int → HostKept s t) := by
  obtain ⟨-, -, -, hw⟩ | ⟨r, -, hpush⟩ | ⟨d, -, hpop⟩ | ⟨n, rfl, hint⟩ := exec_next h
  · exact ⟨hw.kept.1, fun _ => hw.kept.2⟩
  · obtain ⟨-, -, rfl⟩ := pushWord_next.mp hpush
    exact ⟨by constructor <;> simp, fun _ => by constructor <;> simp⟩
  · obtain ⟨-, -, rfl⟩ := execPopReg16_next.mp hpop
    exact ⟨by constructor <;> simp, fun _ => by constructor <;> simp⟩
  · exact ⟨hint.controlKept, fun hne => absurd rfl hne⟩

/-! ### One step (R124) -/

/-- What a step that answers a next state has done. -/
theorem step_next {s t : State} :
    step s = .next t ↔ ∃ i n u, fetchInstr s = .ok (i, n) ∧ exec i s = .next u ∧ t = advanceIp u n := by
  unfold step
  rcases fetchInstr s with f | ⟨i, n⟩
  · simp [raiseError]
  · cases he : exec i s <;> simp [he, eq_comm]

theorem step_frame {s t : State} (h : step s = .next t) :
    t.ap = s.ap ∧ t.cur = s.cur ∧ t.disk = s.disk ∧ t.cfg = s.cfg ∧ MemStored s t := by
  obtain ⟨i, n, u, -, hu, rfl⟩ := step_next.mp h
  have hk := (exec_kept hu).1
  exact ⟨hk.ap, hk.cur, hk.disk, hk.cfg, (exec_memStored hu :)⟩

/-! ### Flags (R18) -/

theorem flagsAfter_of_flags_eq {m : Mnemonic} {s t : State} (hm : m ≠ .and ∧ m ≠ .or ∧ m ≠ .xor)
    (h : t.flags = s.flags) : FlagsAfter m s.flags t.flags := h ▸ flagsAfter_refl _ hm

theorem flagsAfter_exec {i : Instr} {s t : State} (h : exec i s = .next t) : FlagsAfter i.mnemonic s.flags t.flags := by
  obtain ⟨-, -, -, g, hg, hw⟩ | ⟨r, rfl, hpush⟩ | ⟨d, rfl, hpop⟩ | ⟨n, rfl, hint⟩ := exec_next h
  · have htg : t.flags = g := by
      obtain ⟨d, v, -, -, rfl⟩ | ⟨d, v, -, -, rfl⟩ | ⟨m, v, -, -, -, rfl⟩ | ⟨m, v, -, -, -, -, rfl⟩ := hw <;> rfl
    exact htg ▸ hg
  · obtain ⟨-, -, rfl⟩ := pushWord_next.mp hpush
    exact flagsAfter_of_flags_eq (m := .push) (by decide) (by simp)
  · obtain ⟨-, -, rfl⟩ := execPopReg16_next.mp hpop
    exact flagsAfter_of_flags_eq (m := .pop) (by decide) (by simp)
  · exact flagsAfter_of_flags_eq (m := .int) (by decide) hint.regs_flags.2

theorem flagsWritten_eq_flags (m : Mnemonic) : flagsWritten m = m.flags := by cases m <;> rfl

/-! ### Registers (R14, R128, R190, R191) -/

/-- No register changes but those `i` may write, and no byte of an alias destination's register but the alias. -/
def RegistersFramed (i : Instr) (s t : State) : Prop :=
  (∀ q, q ∉ writtenRegs i → readReg16 t q = readReg16 s q) ∧
  (∀ d, aliasDest i = some d → ∀ q, q ≠ d → readReg8 t q = readReg8 s q) ∧
  (writtenRegs i = [] → t.regs = s.regs)

theorem registersFramed_of_regs_eq {i : Instr} {s t : State} (h : t.regs = s.regs) : RegistersFramed i s t :=
  ⟨fun q _ => readReg16_congr h q, fun _ _ q _ => readReg8_congr h q, fun _ => h⟩

/-- An instruction without an alias destination that leaves every register outside its non-empty list. -/
theorem registersFramed_of_written {i : Instr} {s t : State} {r : Reg16} {rs : List Reg16} (hw : writtenRegs i = r :: rs)
    (ha : aliasDest i = none) (h : ∀ q, q ∉ r :: rs → readReg16 t q = readReg16 s q) : RegistersFramed i s t :=
  ⟨hw ▸ h, by simp [ha], by simp [hw]⟩

/-- Outside `push`, `pop` and `int` the written register is the destination's. -/
theorem writtenRegs_of_reg8 {i : Instr} {d : Reg8} {rest : List Operand} (hpush : i.mnemonic ≠ .push)
    (hint : i.mnemonic ≠ .int) (ho : i.operands = .reg8 d :: rest) : writtenRegs i = [d.parent] := by
  unfold writtenRegs; split <;> simp_all

theorem writtenRegs_of_reg16 {i : Instr} {d : Reg16} {rest : List Operand} (hpush : i.mnemonic ≠ .push)
    (hpop : i.mnemonic ≠ .pop) (hint : i.mnemonic ≠ .int) (ho : i.operands = .reg16 d :: rest) :
    writtenRegs i = [d] := by
  unfold writtenRegs; split <;> simp_all

theorem WroteFirst.registersFramed {i : Instr} {s t : State} (hpush : i.mnemonic ≠ .push) (hpop : i.mnemonic ≠ .pop)
    (hint : i.mnemonic ≠ .int) (h : WroteFirst i s t) : RegistersFramed i s t := by
  obtain ⟨g, -, ⟨d, v, rest, ho, rfl⟩ | ⟨d, v, rest, ho, rfl⟩ | ⟨m, v, -, -, -, rfl⟩ | ⟨m, v, -, -, -, -, rfl⟩⟩ := h
  · have hw := writtenRegs_of_reg8 hpush hint ho
    refine ⟨fun q hq => ?_, fun d' hd' q hq => ?_, by simp [hw]⟩
    · rw [readReg16_with_flags, readReg16_writeReg8_other]
      simpa [hw] using hq
    · obtain rfl : d = d' := by simpa [aliasDest, ho] using hd'
      exact readReg8_writeReg8_other s v hq
  · refine registersFramed_of_written (writtenRegs_of_reg16 hpush hpop hint ho) (by simp [aliasDest, ho]) fun q hq => ?_
    rw [readReg16_with_flags, readReg16_writeReg16_other]
    simpa using hq
  · exact registersFramed_of_regs_eq rfl
  · exact registersFramed_of_regs_eq rfl

theorem exec_registersFramed {i : Instr} {s t : State} (h : exec i s = .next t) : RegistersFramed i s t := by
  obtain ⟨h1, h2, h3, hw⟩ | ⟨r, rfl, hpush⟩ | ⟨d, rfl, hpop⟩ | ⟨n, rfl, hint⟩ := exec_next h
  · exact hw.registersFramed h1 h2 h3
  · obtain ⟨-, -, rfl⟩ := pushWord_next.mp hpush
    refine registersFramed_of_written (r := .sp) (rs := []) rfl rfl fun q hq => ?_
    rw [readReg16_writeReg16_other _ _ (by simpa using hq), readReg16_with_mem]
  · obtain ⟨-, -, rfl⟩ := execPopReg16_next.mp hpop
    refine registersFramed_of_written (r := d) (rs := [.sp]) rfl rfl fun q hq => ?_
    obtain ⟨hd, hsp⟩ : q ≠ d ∧ q ≠ .sp := by simpa using hq
    rw [readReg16_writeReg16_other _ _ hd, readReg16_writeReg16_other _ _ hsp]
  · exact registersFramed_of_regs_eq hint.regs_flags.1

end Sys2Proof.Machine

namespace Sys2Proof.Proofs

open Sys2Proof.Machine

/-- Settles O40: the register frame of the executor. -/
theorem unwrittenRegistersKeepTheirValues : Obligations.UnwrittenRegistersKeepTheirValues :=
  fun _ _ _ h => exec_registersFramed h

/-- Settles O43: the frame of the executor, which a step keeps but for IP. -/
theorem instructionsLeaveControlStateAndDisk : Obligations.InstructionsLeaveControlStateAndDisk := by
  refine ⟨fun i s t h => ?_, fun s t h => ?_⟩
  · obtain ⟨⟨hip, hap, hcur, hdisk, hcfg⟩, hhost⟩ := exec_kept h
    refine ⟨hip, hap, hcur, hdisk, hcfg, fun hi => ?_⟩
    obtain ⟨hev, hl, hd⟩ := hhost hi
    exact ⟨hev, hl, hd⟩
  · obtain ⟨hap, hcur, hdisk, hcfg, -⟩ := step_frame h
    exact ⟨hap, hcur, hdisk, hcfg⟩

end Sys2Proof.Proofs
end

section
/-! PROOFS. What the host's commands change, one inversion lemma an operation, and that three of them may write a flag. -/

namespace Sys2Proof.Machine

/-! ### The state after a command (R121, R255) -/

theorem stateAfter_next {c : Command} {s t : State} {v : Value} (h : perform c s = .next (v, t)) : stateAfter c s = t := by
  simp [stateAfter, h]

theorem stateAfter_fault {c : Command} {s : State} {e : Err} (h : perform c s = .fault e) : stateAfter c s = s := by
  simp [stateAfter, h]

theorem stateAfter_answer {α : Type} {c : Command} {s : State} {x : Except Err α} {f : α → Value}
    (h : perform c s = answer s x f) : stateAfter c s = s := by
  cases x with
  | ok v => exact stateAfter_next h
  | error e => exact stateAfter_fault h

/-- A command that changes the state leaves what it answers, or the state before. -/
theorem stateAfter_change {c : Command} {s : State} {x : Except Err State} {P : State → Prop}
    (h : perform c s = change x) (hs : P s) (hx : ∀ t, x = .ok t → P t) : P (stateAfter c s) := by
  cases x with
  | ok t => exact stateAfter_next h ▸ hx t rfl
  | error e => exact (stateAfter_fault h).symm ▸ hs

/-- A command that changes one named register, byte or flag. -/
theorem stateAfter_changeNamed {α : Type} {c : Command} {s : State} {x : Except Err α} {f : α → State} {P : State → Prop}
    (h : perform c s = change (x.map f)) (hs : P s) (hf : ∀ v, P (f v)) : P (stateAfter c s) :=
  stateAfter_change h hs fun t ht => by
    cases x with
    | ok v => cases ht; exact hf v
    | error e => cases ht

/-- EXEC and STEP leave what the run answers, or the state before. -/
theorem stateAfter_runReply {c : Command} {s : State} {r : Result} {P : State → Prop}
    (h : perform c s = runReply r) (hs : P s) (hr : ∀ t, r = .next t → P t) : P (stateAfter c s) := by
  cases r with
  | next t => exact stateAfter_next h ▸ hr t rfl
  | fault f => exact (stateAfter_fault h).symm ▸ hs
  | refused q => simpa [stateAfter, h, runReply] using hs

/-! ### What each operation of the memory and disk commands answers (R210 to R240) -/

/-- Only memory differs, by some bytes stored within its size. -/
def OnlyMemStored (s t : State) : Prop :=
  ∃ a bs, a + bs.length ≤ s.cfg.memSize ∧ t = { s with mem := writeBytes s.mem a bs }

/-- Only the disk differs, by some bytes stored within its size. -/
def OnlyDiskStored (s t : State) : Prop :=
  ∃ a bs, a + bs.length ≤ s.cfg.diskSize ∧ t = { s with disk := writeBytes s.disk a bs }

theorem OnlyMemStored.flags {s t : State} (h : OnlyMemStored s t) : t.flags = s.flags := by
  obtain ⟨a, bs, -, rfl⟩ := h; rfl

theorem OnlyDiskStored.flags {s t : State} (h : OnlyDiskStored s t) : t.flags = s.flags := by
  obtain ⟨a, bs, -, rfl⟩ := h; rfl

theorem locate_eq_ok {s : State} {a : Addr} {p o : Word} (h : locate s a = .ok (p, o)) : p.toNat < s.cfg.nPages := by
  have full : ∀ q u, locate s (.full q u) = .ok (p, o) → p.toNat < s.cfg.nPages := fun q u hq => by
    by_cases hp : q.toNat < s.cfg.nPages
    · rw [locate_ok u hp] at hq; cases hq; exact hp
    · rw [locate_error u hp] at hq; cases hq
  cases a with
  | full q u => exact full q u h
  | offset u => exact full s.ap u h

theorem storeInPage_eq_ok {s t : State} {p o : Word} {bs : List Byte} (h : storeInPage s p o bs = .ok t) :
    o.toNat + bs.length ≤ pageSize ∧ t = { s with mem := writeBytes s.mem (phys p o) bs } := by
  unfold storeInPage at h
  split at h
  · cases h; exact ⟨‹_›, rfl⟩
  · cases h

theorem poke_eq_ok {s t : State} {a : Addr} {b : Byte} (h : poke s a b = .ok t) : OnlyMemStored s t := by
  unfold poke at h
  split at h
  · cases h
  · next p o hl => cases h; exact ⟨phys p o, [b], phys_lt_memSize.mpr (locate_eq_ok hl), rfl⟩

theorem pokeString_eq_ok {s t : State} {a : Addr} {bs : List Byte} (h : pokeString s a bs = .ok t) :
    OnlyMemStored s t := by
  unfold pokeString at h
  split at h
  · cases h
  · next p o hl =>
    obtain ⟨hlen, rfl⟩ := storeInPage_eq_ok h
    exact ⟨_, _, phys_add_le_memSize (locate_eq_ok hl) hlen, rfl⟩

theorem fillRange_eq_ok {s t : State} {a : Addr} {stop : Word} {pat : Option Pattern}
    (h : fillRange s a stop pat = .ok t) : OnlyMemStored s t := by
  unfold fillRange at h
  split at h
  · cases h
  · next p start hl =>
    split at h
    · next hle =>
      cases h
      have hstop := stop.isLt
      refine ⟨_, _, phys_add_le_memSize (locate_eq_ok hl) ?_, rfl⟩
      rw [length_cycle, rangeLen, pageSize]; omega
    · cases h

theorem moveRange_eq_ok {s t : State} {a b : Addr} {stop : Word} (h : moveRange s a stop b = .ok t) :
    OnlyMemStored s t := by
  unfold moveRange at h
  split at h
  · cases h
  · cases h
  · next ps start pd dest hs hd =>
    dsimp only at h
    split at h
    · next hr =>
      split at h
      · cases h
      · cases h
        exact ⟨_, _, phys_add_le_memSize (locate_eq_ok hd) (by simpa using hr.2), rfl⟩
    · cases h

theorem codeStore_eq_ok {s t : State} {bs : List Byte} (h : codeStore s bs = .ok t) :
    s.cur.toNat + bs.length ≤ pageSize ∧
      t = { s with mem := writeBytes s.mem (phys s.ap s.cur) bs, cur := s.cur + BitVec.ofNat 16 bs.length } := by
  unfold codeStore at h
  split at h
  · cases h
  · next u hu =>
    obtain ⟨hlen, rfl⟩ := storeInPage_eq_ok hu
    cases h
    exact ⟨hlen, rfl⟩

theorem setPage_eq_ok {s t : State} {q : Word} (h : setPage s q = .ok t) :
    q.toNat < s.cfg.nPages ∧ t = { s with ap := q } := by
  unfold setPage at h
  split at h
  · cases h; exact ⟨(validPage_eq _ _).mp ‹_›, rfl⟩
  · cases h

theorem diskRead_eq_ok {s t : State} {a : Addr} {first count : Nat} (h : diskRead s a first count = .ok t) :
    OnlyMemStored s t := by
  unfold diskRead at h
  split at h
  · cases h
  · split at h
    · next hok =>
      cases h
      obtain ⟨-, -, hm⟩ := (transferOk_iff ..).mp hok
      exact ⟨_, _, by simpa using hm, rfl⟩
    · cases h

theorem diskWrite_eq_ok {s t : State} {a : Addr} {first count : Nat} (h : diskWrite s a first count = .ok t) :
    OnlyDiskStored s t := by
  unfold diskWrite at h
  split at h
  · cases h
  · split at h
    · next hok =>
      cases h
      obtain ⟨hsec, -, -⟩ := (transferOk_iff ..).mp hok
      refine ⟨_, _, ?_, rfl⟩
      calc first * s.cfg.sectorSize + (readBytes s.mem _ (count * s.cfg.sectorSize)).length
          = s.cfg.sectorSize * (first + count) := by rw [length_readBytes]; ring
        _ ≤ s.cfg.diskSize := Nat.mul_le_mul_left _ hsec
    · cases h

/-! ### Errors and flags (R18, R255) -/

theorem admission_decodedOf_eq_ok {c : Config} {i j : Instr} (h : admission c (decodedOf i) = .ok j) : j = i := by
  simp only [admission, decodedOf, Mnemonic.ofName_name, Instr.ofParts_parts] at h
  split at h
  · cases h
  split at h
  · cases h
  · cases h; rfl

/-- EXEC of an instruction that ends in an error leaves the session as it was, admitted or not. -/
theorem stateAfter_exec_fault {i : Instr} {s : State} {f : Fault} (h : exec i s = .fault f) :
    stateAfter (.exec (decodedOf i)) s = s := by
  cases ha : admission s.cfg (decodedOf i) with
  | error e => exact stateAfter_fault (e := e) (by simp [perform, ha])
  | ok j =>
    obtain rfl := admission_decodedOf_eq_ok ha
    exact stateAfter_fault (e := errOfFault f) (by simp [perform, ha, h, runReply])

theorem stateAfter_step_fault {s : State} {f : Fault} (h : step s = .fault f) : stateAfter .step s = s :=
  stateAfter_fault (e := errOfFault f) (by simp [perform, h, runReply])

/-- The three commands that may write a flag. -/
def Command.mayWriteFlags : Command → Bool
  | .flagSet _ _ | .exec _ | .step => true
  | _ => false

theorem stateAfter_flags {c : Command} (hc : c.mayWriteFlags = false) (s : State) :
    (stateAfter c s).flags = s.flags := by
  have kept {x : Except Err State} (h : perform c s = change x) (hx : ∀ t, x = .ok t → t.flags = s.flags) :
      (stateAfter c s).flags = s.flags := stateAfter_change (P := fun t => t.flags = s.flags) h rfl hx
  have keptNamed {α : Type} {x : Except Err α} {f : α → State} (h : perform c s = change (x.map f))
      (hf : ∀ v, (f v).flags = s.flags) : (stateAfter c s).flags = s.flags :=
    stateAfter_changeNamed (P := fun t => t.flags = s.flags) h rfl hf
  cases c with
  | flagSet | exec | step => cases hc
  | ipGet | ipSet | pageGet | curGet | curSet | diskLoad | diskSave => rfl
  | regGet | regbGet | flagGet | decode | disasm | peek | search | compare | resolveRange | diskBytes =>
    exact congrArg State.flags (stateAfter_answer rfl)
  | regSet n v => exact keptNamed rfl fun r => writeReg16_flags s r v
  | regbSet n v => exact keptNamed rfl fun r => writeHalf_flags s r.1 r.2 v
  | setPage q => exact kept rfl fun t ht => (setPage_eq_ok ht).2 ▸ rfl
  | codeStore bs => exact kept rfl fun t ht => (codeStore_eq_ok ht).2 ▸ rfl
  | poke a b => exact kept rfl fun t ht => (poke_eq_ok ht).flags
  | pokeString a bs => exact kept rfl fun t ht => (pokeString_eq_ok ht).flags
  | fill a stop pat => exact kept rfl fun t ht => (fillRange_eq_ok ht).flags
  | move a stop b => exact kept rfl fun t ht => (moveRange_eq_ok ht).flags
  | diskRead a first count => exact kept rfl fun t ht => (diskRead_eq_ok ht).flags
  | diskWrite a first count => exact kept rfl fun t ht => (diskWrite_eq_ok ht).flags

end Sys2Proof.Machine

namespace Sys2Proof.Proofs

open Sys2Proof.Machine Sys2Proof.Spec

/-- Settles O41: the flags an instruction leaves are those its row of R18 does not name, an error leaves the state, and no
memory or disk command is among the three that may write a flag. -/
theorem unwrittenFlagsKeepTheirValues : Obligations.UnwrittenFlagsKeepTheirValues := by
  refine ⟨fun i s t h => ?_, fun s f h => ?_, fun i s f h => ?_, fun s a b x y v bs p q n k g file c hc => ?_⟩
  · obtain ⟨hkeep, hclear⟩ := flagsAfter_exec h
    refine ⟨fun f hf => ?_, fun hm => hclear hm⟩
    rw [readFlag_eq_get, readFlag_eq_get]
    exact hkeep f (flagsWritten_eq_flags _ ▸ hf)
  · rw [stateAfter_step_fault h]
  · rw [stateAfter_exec_fault h]
  · have hno : c.mayWriteFlags = false := by fin_cases hc <;> rfl
    exact stateAfter_flags hno s

end Sys2Proof.Proofs
end

section
/-! PROOFS. The invariant of the engine (R30): it holds at reset, and every step and every command of the host keeps it. -/

namespace Sys2Proof.Machine

/-! ### What the invariant speaks of -/

/-- The invariant speaks of configuration, active page, memory and disk alone. -/
theorem State.Inv.of_memStored {s t : State} (h : s.Inv) (hcfg : t.cfg = s.cfg) (hap : t.ap = s.ap)
    (hdisk : t.disk = s.disk) (hmem : MemStored s t) : t.Inv := by
  obtain ⟨hwf, hp, hm, hmb, hd, hdb⟩ := h
  obtain ⟨a, bs, hle, hmem⟩ := hmem
  rw [State.Inv, hcfg, hap, hdisk, hmem]
  exact ⟨hwf, hp, writeBytes_wf hm a bs, writeBytes_below hmb bs hle, hd, hdb⟩

theorem State.Inv.of_mem_eq {s t : State} (h : s.Inv) (hcfg : t.cfg = s.cfg) (hap : t.ap = s.ap)
    (hdisk : t.disk = s.disk) (hmem : t.mem = s.mem) : t.Inv :=
  h.of_memStored hcfg hap hdisk (memStored_of_mem_eq hmem)

theorem State.Inv.of_onlyMemStored {s t : State} (h : s.Inv) (ht : OnlyMemStored s t) : t.Inv := by
  obtain ⟨a, bs, hle, rfl⟩ := ht
  exact h.of_memStored rfl rfl rfl ⟨a, bs, hle, rfl⟩

theorem State.Inv.of_disk {s : State} (h : s.Inv) {d : Memory} (hd : d.wf) (hb : d.below s.cfg.diskSize) :
    State.Inv { s with disk := d } := by
  obtain ⟨hwf, hp, hm, hmb, -, -⟩ := h
  exact ⟨hwf, hp, hm, hmb, hd, hb⟩

theorem State.Inv.of_onlyDiskStored {s t : State} (h : s.Inv) (ht : OnlyDiskStored s t) : t.Inv := by
  have ⟨_, _, _, _, hd, hdb⟩ := h
  obtain ⟨a, bs, hle, rfl⟩ := ht
  exact h.of_disk (writeBytes_wf hd a bs) (writeBytes_below hdb bs hle)

theorem diskLoad_keeps_inv {s : State} (h : s.Inv) (file : Option (List Byte)) : (diskLoad s file).Inv := by
  refine h.of_disk (storeOf_wf _ _) fun c hc => ?_
  have hlt := (mem_storeOf hc).2.1
  have hlen : ((file.getD []).take s.cfg.diskSize).length ≤ s.cfg.diskSize := List.length_take_le _ _
  omega

theorem setPage_keeps_inv {s t : State} {q : Word} (h : s.Inv) (ht : setPage s q = .ok t) : t.Inv := by
  obtain ⟨hwf, -, hrest⟩ := h
  obtain ⟨hq, rfl⟩ := setPage_eq_ok ht
  exact ⟨hwf, hq, hrest⟩

theorem codeStore_keeps_inv {s t : State} {bs : List Byte} (h : s.Inv) (ht : codeStore s bs = .ok t) : t.Inv := by
  obtain ⟨hlen, rfl⟩ := codeStore_eq_ok ht
  exact h.of_memStored rfl rfl rfl (memStored_in_page h.2.1 hlen rfl)

theorem exec_keeps_inv {i : Instr} {s t : State} (h : s.Inv) (ht : exec i s = .next t) : t.Inv :=
  have hk := (exec_kept ht).1
  h.of_memStored hk.cfg hk.ap hk.disk (exec_memStored ht)

theorem step_keeps_inv {s t : State} (h : s.Inv) (ht : step s = .next t) : t.Inv := by
  obtain ⟨hap, -, hdisk, hcfg, hmem⟩ := step_frame ht
  exact h.of_memStored hcfg hap hdisk hmem

/-- A command that only answers a value. -/
theorem answer_keeps_inv {α : Type} {c : Command} {s : State} {x : Except Err α} {f : α → Value} (h : s.Inv)
    (hc : perform c s = answer s x f) : (stateAfter c s).Inv :=
  (stateAfter_answer hc).symm ▸ h

theorem execCommand_keeps_inv {s : State} (h : s.Inv) (d : Decoded) : (stateAfter (.exec d) s).Inv := by
  cases ha : admission s.cfg d with
  | error e =>
    have hp : perform (.exec d) s = .fault e := by simp [perform, ha]
    exact (stateAfter_fault hp).symm ▸ h
  | ok i =>
    have hp : perform (.exec d) s = runReply (exec i s) := by simp [perform, ha]
    exact stateAfter_runReply hp h fun t ht => exec_keeps_inv h ht

end Sys2Proof.Machine

namespace Sys2Proof.Proofs

open Sys2Proof.Machine

/-- Settles O13: a step keeps configuration, active page and disk, and stores only within memory. -/
theorem stepKeepsTheInvariant : Obligations.StepKeepsTheInvariant := fun _ _ hs ht => step_keeps_inv hs ht

/-- Settles O15, command by command: one that only answers leaves the state, a register, flag or pointer command
leaves what the invariant speaks of, and the others store within memory or disk or select an existing page. -/
theorem everyCommandKeepsTheInvariant : Obligations.EveryCommandKeepsTheInvariant := by
  intro c s h
  cases c with
  | ipGet | pageGet | curGet => exact h
  | regGet | regbGet | flagGet | decode | disasm | peek | search | compare | resolveRange | diskBytes =>
    exact answer_keeps_inv h rfl
  | regSet n v => exact stateAfter_changeNamed rfl h fun r => h.of_mem_eq (by simp) (by simp) (by simp) (by simp)
  | regbSet n v => exact stateAfter_changeNamed rfl h fun r => h.of_mem_eq (by simp) (by simp) (by simp) (by simp)
  | flagSet n b => exact stateAfter_changeNamed rfl h fun f => h.of_mem_eq (by simp) (by simp) (by simp) (by simp)
  | ipSet | curSet | diskSave => exact h.of_mem_eq rfl rfl rfl rfl
  | setPage q => exact stateAfter_change rfl h fun t ht => setPage_keeps_inv h ht
  | codeStore bs => exact stateAfter_change rfl h fun t ht => codeStore_keeps_inv h ht
  | exec d => exact execCommand_keeps_inv h d
  | step => exact stateAfter_runReply rfl h fun t ht => step_keeps_inv h ht
  | poke a b => exact stateAfter_change rfl h fun t ht => h.of_onlyMemStored (poke_eq_ok ht)
  | pokeString a bs => exact stateAfter_change rfl h fun t ht => h.of_onlyMemStored (pokeString_eq_ok ht)
  | fill a stop pat => exact stateAfter_change rfl h fun t ht => h.of_onlyMemStored (fillRange_eq_ok ht)
  | move a stop b => exact stateAfter_change rfl h fun t ht => h.of_onlyMemStored (moveRange_eq_ok ht)
  | diskLoad file => exact diskLoad_keeps_inv h file
  | diskRead a first count => exact stateAfter_change rfl h fun t ht => h.of_onlyMemStored (diskRead_eq_ok ht)
  | diskWrite a first count => exact stateAfter_change rfl h fun t ht => h.of_onlyDiskStored (diskWrite_eq_ok ht)

/-- Settles O14: the reset values of a legal configuration are such a state. -/
theorem resetMeetsTheInvariant : Obligations.ResetMeetsTheInvariant := by
  have reset : ∀ c : Config, c.wf → (State.resetWith c).Inv := fun c hc => by
    have ⟨_, _, _, hreset⟩ := hc
    exact ⟨hc, hreset⟩
  exact ⟨reset, reset _ defaultConfig_wf⟩

end Sys2Proof.Proofs
end

section
/-! PROOFS. The register-name table row by row, register fields that name no register, and how far a fetch reaches
(R12, R21, R74, R90). -/

namespace Sys2Proof

/-! ### Names (R12) -/

/-- A text finds a name exactly when it is that name in some case. -/
theorem regOfName_eq_some_iff {c : Config} (h : RegTable.wf c.regTable) {t : Text} {n : RegName} :
    regOfName c t = some n ↔ upperText t = n.text := by
  constructor
  · intro ht
    obtain ⟨e, he, rfl⟩ := Option.map_eq_some_iff.mp ht
    have hname : e.name.text = upperText t := by simpa using List.find?_some he
    exact hname.symm
  · intro ht
    have hsame : upperText t = upperText n.text := ht.trans (upperText_text n).symm
    rw [← regOfName_text h n, regOfName, regOfName, hsame]

theorem regOfIndex_eq_some_iff {c : Config} (h : RegTable.wf c.regTable) {b : Byte} {n : RegName} :
    regOfIndex c b = some n ↔ indexOf c n = b :=
  ⟨indexOf_of_regOfIndex h, fun hb => hb ▸ regOfIndex_indexOf h n⟩

/-! ### The spec's register-name table -/

section SpecTable
variable {c : Config} (h : c.regTable = Machine.specRegTable)
include h

theorem regTable_wf_of_spec : RegTable.wf c.regTable := h ▸ specRegTable_wf

theorem indexOf_reg16 (r : Reg16) : indexOf c (.reg16 r) = Spec.index16 r := by
  rw [indexOf, h]; cases r <;> rfl

theorem indexOf_reg8 (r : Reg8) : indexOf c (.reg8 r) = Spec.index8 r := by
  rw [indexOf, h]; cases r <;> rfl

theorem toNat_indexOf_lt (n : RegName) : (indexOf c n).toNat < 0x10 := by
  rcases n with r | r
  · rw [indexOf_reg16 h]; cases r <;> decide
  · rw [indexOf_reg8 h]; cases r <;> decide

end SpecTable

theorem registerRows_sound : ∀ x ∈ Spec.registerRows, x.1 = Spec.index16 x.2.1 ∧ x.2.2 = x.2.1.name := by decide

theorem aliasRows_sound : ∀ x ∈ Spec.aliasRows, x.1 = Spec.index8 x.2.1 ∧ x.2.2.1 = x.2.1.name ∧
    x.2.2.2.1 = x.2.1.parent ∧ x.2.2.2.2 = x.2.1.half := by decide

theorem registerRows_complete (r : Reg16) : ∃ x ∈ Spec.registerRows, x.2.2 = r.name := by
  cases r <;> decide

theorem aliasRows_complete (r : Reg8) : ∃ x ∈ Spec.aliasRows, x.2.2.1 = r.name := by
  cases r <;> decide

/-! ### Operand fields with all their bytes present (R74, R91) -/

/-- A field whose bytes are there is read, or names no register of its width. -/
theorem decodeOperand_of_enough (c : Config) {sh : Shape} {bs : List Byte} (hlen : sh.bytes ≤ bs.length) :
    decodeOperand c sh bs = .error .badRegisterIndex ∨ ∃ op, decodeOperand c sh bs = .ok (op, bs.drop sh.bytes) := by
  match sh, bs, hlen with
  | .reg8, b :: t, _ => simp only [decodeOperand]; split <;> simp [Shape.bytes]
  | .reg16, b :: t, _ => simp only [decodeOperand]; split <;> simp [Shape.bytes]
  | .imm8, b :: t, _ => exact .inr ⟨_, rfl⟩
  | .imm16, lo :: hi :: t, _ | .mem8, lo :: hi :: t, _ | .mem16, lo :: hi :: t, _ | .rel8, lo :: hi :: t, _
  | .rel16, lo :: hi :: t, _ => exact .inr ⟨_, rfl⟩

theorem decodeOperand_badRegister {c : Config} {sh : Shape} {b : Byte} (h : Spec.BadRegister c sh b) (t : List Byte) :
    decodeOperand c sh (b :: t) = .error .badRegisterIndex := by
  rcases h with ⟨rfl, h⟩ | ⟨rfl, h⟩ <;> unfold decodeOperand <;> split <;> simp_all

/-- A bad register field anywhere in a signature whose bytes are all there. -/
theorem decodeOperands_badRegister {c : Config} {sh : Shape} {b : Byte} (h : Spec.BadRegister c sh b) {pre post : List Shape}
    {bs : List Byte} (hlen : (pre.map Shape.bytes).sum ≤ bs.length) (hb : bs[(pre.map Shape.bytes).sum]? = some b) :
    decodeOperands c (pre ++ sh :: post) bs = .error .badRegisterIndex := by
  induction pre generalizing bs with
  | nil =>
    obtain ⟨t, rfl⟩ : ∃ t, bs = b :: t := by
      cases bs with
      | nil => simp at hb
      | cons a t => exact ⟨t, by simpa using hb⟩
    simp [decodeOperands, decodeOperand_badRegister h]
  | cons s ss ih =>
    rw [List.map_cons, List.sum_cons] at hlen hb
    rcases decodeOperand_of_enough c (sh := s) (bs := bs) (by omega) with he | ⟨op, ho⟩
    · simp [decodeOperands, he]
    · have hrest := ih (bs := bs.drop s.bytes) (by rw [List.length_drop]; omega) (by rwa [List.getElem?_drop])
      simp [decodeOperands, ho, hrest]

/-! ### Lengths (R76, R90) -/

/-- What the decoder reads lies within the bytes it was given. -/
theorem decode_length {c : Config} {bs : List Byte} {i : Instr} {n : Nat} (h : decode c bs = .ok (i, n)) :
    1 ≤ n ∧ n ≤ bs.length := by
  cases bs with
  | nil => cases h
  | cons b t =>
    cases he : entryOfOpcode c b with
    | none => rw [decode_cons_none he] at h; cases h
    | some e =>
      by_cases hl : t.length + 1 < entryLength e
      · rw [decode_cons_short he hl] at h; cases h
      · rw [decode_cons_full he (by omega)] at h
        obtain rfl : n = entryLength e := by
          split at h
          · cases h
          split at h
          · cases h; rfl
          · cases h
        exact ⟨Nat.le_add_right 1 _, by rw [List.length_cons]; omega⟩

end Sys2Proof

namespace Sys2Proof.Machine

open Sys2Proof.Spec

/-! ### The fetch (R21, R124) -/

@[simp] theorem length_fetchWindow (s : State) (p o : Word) :
    (fetchWindow s p o).length = min 4 (pageSize - o.toNat) := by
  simp [fetchWindow]

theorem fetchWindow_eq_cons (s : State) (p o : Word) : ∃ t, fetchWindow s p o = byteAt s p o :: t := by
  have ho := o.isLt
  have hpos : 0 < min 4 (pageSize - o.toNat) := by simp only [pageSize]; omega
  obtain ⟨n, hn⟩ := Nat.exists_eq_add_one.mpr hpos
  exact ⟨_, by rw [fetchWindow, readBytes, hn, List.range_succ_eq_map, List.map_cons, Nat.add_zero, byteAt]⟩

theorem fetchInstr_eq_ok {s : State} {i : Instr} {n : Nat} (h : fetchInstr s = .ok (i, n)) :
    decode s.cfg (fetchWindow s s.ap s.ip) = .ok (i, n) := by
  unfold fetchInstr at h
  split at h
  · split at h
    · cases h; assumption
    · cases h
  · cases h

theorem step_of_decode_error {s : State} {reason : DiagReason} (hp : PageExists s s.ap)
    (h : decode s.cfg (fetchWindow s s.ap s.ip) = .error reason) :
    step s = .fault (.disassembleDiagnostic s.ip (byteAt s s.ap s.ip) reason) := by
  simp [step, fetchInstr, (validPage_eq _ _).mpr hp, h, raiseError]

end Sys2Proof.Machine

namespace Sys2Proof.Proofs

open Sys2Proof.Machine Sys2Proof.Spec

/-- Settles O6: each row is the index and the name of its register, no other index or name is one, and the fields before a bad
one are read or bad themselves. -/
theorem registerFieldsAreThoseOfTheTable : Obligations.RegisterFieldsAreThoseOfTheTable := by
  refine ⟨fun c ⟨hreg, _⟩ => ?_, fun c e pre post sh rest b hwf he hsig hb hlen hbad => ?_⟩
  · have hwf := regTable_wf_of_spec hreg
    refine ⟨fun x hx => ?_, fun x hx => ?_, fun b hb => ?_, fun t h16 h8 => ?_⟩
    · obtain ⟨hindex, hname⟩ := registerRows_sound x hx
      have hi := (indexOf_reg16 hreg x.2.1).trans hindex.symm
      exact ⟨(regOfIndex_eq_some_iff hwf).mpr hi, hi, fun t => hname ▸ regOfName_eq_some_iff hwf⟩
    · obtain ⟨hindex, hname, hparent, hhalf⟩ := aliasRows_sound x hx
      have hi := (indexOf_reg8 hreg x.2.1).trans hindex.symm
      exact ⟨(regOfIndex_eq_some_iff hwf).mpr hi, hi, fun t => hname ▸ regOfName_eq_some_iff hwf,
        fun s => by rw [hparent, hhalf]; rfl⟩
    · refine Option.eq_none_iff_forall_ne_some.mpr fun n hn => ?_
      have hlt := toNat_indexOf_lt hreg n
      rw [indexOf_of_regOfIndex hwf hn] at hlt
      omega
    · refine Option.eq_none_iff_forall_ne_some.mpr fun n hn => ?_
      have ht := (regOfName_eq_some_iff hwf).mp hn
      rcases n with r | r
      · obtain ⟨x, hx, hname⟩ := registerRows_complete r
        exact h16 x hx (ht.trans hname.symm)
      · obtain ⟨x, hx, hname⟩ := aliasRows_complete r
        exact h8 x hx (ht.trans hname.symm)
  · have hfields : decodeOperands c e.signature rest = .error .badRegisterIndex := by
      rw [hsig]
      exact decodeOperands_badRegister hbad (List.getElem?_eq_some_iff.mp hb).1.le hb
    rw [decode_cons_full (OpTable.found hwf.2 he).1 hlen, hfields]

/-- Settles O10: the fetch window ends with the page, and what is decoded lies within the window. -/
theorem stepsFetchOnlyWithinThePage : Obligations.StepsFetchOnlyWithinThePage := by
  refine ⟨fun s t h => ?_, fun s e hp he hpast => ?_⟩
  · obtain ⟨i, n, u, hf, hu, rfl⟩ := step_next.mp h
    have hdec := fetchInstr_eq_ok hf
    obtain ⟨hpos, hle⟩ := decode_length hdec
    rw [length_fetchWindow, pageSize] at hle
    have hip := s.ip.isLt
    have hnew : (advanceIp u n).ip.toNat = (s.ip.toNat + n) % 65536 := by
      rw [advanceIp_ip, (exec_kept hu).1.ip, BitVec.toNat_add, BitVec.toNat_ofNat]
      omega
    refine ⟨i, n, hdec, by omega, hnew, ?_, (exec_kept hu).1.ap⟩
    rw [← BitVec.toNat_inj, hnew, BitVec.ofNat_eq_ofNat, BitVec.toNat_zero]
    omega
  · refine step_of_decode_error hp ?_
    obtain ⟨t, ht⟩ := fetchWindow_eq_cons s s.ap s.ip
    have hlen := length_fetchWindow s s.ap s.ip
    have hip := s.ip.isLt
    rw [ht, List.length_cons, pageSize] at hlen
    rw [ht]
    exact decode_cons_short he (by omega)

end Sys2Proof.Proofs
end

section
/-! PROOFS. Memory by logical address: translation, what a write leaves to be read, and which bytes an instruction stores
(R40, R41, R44, R47, R48). -/

namespace Sys2Proof.Machine

open Sys2Proof.Spec

/-! ### Translation (R40, R42) -/

/-- Every byte of memory has a logical address, where memory is no larger than the pages a word can name. -/
theorem exists_phys_eq {c : Config} {a : Nat} (hc : c.nPages ≤ 65536) (ha : a < c.memSize) :
    ∃ p o : Word, p.toNat < c.nPages ∧ phys p o = a := by
  have hpage : a / 65536 < c.nPages := Nat.div_lt_of_lt_mul (Nat.mul_comm .. ▸ ha)
  refine ⟨BitVec.ofNat 16 (a / 65536), BitVec.ofNat 16 (a % 65536), ?_, ?_⟩
  · rw [BitVec.toNat_ofNat]; omega
  · rw [phys, pageSize, BitVec.toNat_ofNat, BitVec.toNat_ofNat]; omega

/-- Within a page the next offset is the next byte of memory. -/
theorem phys_add_one (p : Word) {o : Word} (h : o.toNat + 1 ≤ 0xFFFF) : phys p (o + 1) = phys p o + 1 := by
  have ho : (o + 1).toNat = o.toNat + 1 := by bv_omega
  rw [phys, phys, ho]; omega

/-! ### A word in memory (R46, R47) -/

@[simp] theorem readPhys_writeBytes_word_low (m : Memory) (a : Nat) (v : Word) :
    readPhys (writeBytes m a (wordBytes v)) a = lowByte v := by
  simp [wordBytes, readPhys_writeBytes]

@[simp] theorem readPhys_writeBytes_word_high (m : Memory) (a : Nat) (v : Word) :
    readPhys (writeBytes m a (wordBytes v)) (a + 1) = highByte v := by
  simp [wordBytes, readPhys_writeBytes]

theorem readPhys_writeBytes_word_other (m : Memory) {a x : Nat} (v : Word) (h : x ≠ a) (h' : x ≠ a + 1) :
    readPhys (writeBytes m a (wordBytes v)) x = readPhys m x :=
  readPhys_writeBytes_other m (wordBytes v) (by simp only [wordBytes, List.length_cons, List.length_nil]; omega)

/-! ### The range an instruction stores to (R44, R190, R198) -/

theorem storedTo_of_mem8 {i : Instr} {m : Word} {rest : List Operand} (hpush : i.mnemonic ≠ .push)
    (hint : i.mnemonic ≠ .int) (ho : i.operands = .mem8 m :: rest) (s : State) :
    storedTo i s = some (phys s.ap m, 1) := by
  unfold storedTo; split <;> simp_all

theorem storedTo_of_mem16 {i : Instr} {m : Word} {rest : List Operand} (hpush : i.mnemonic ≠ .push)
    (hint : i.mnemonic ≠ .int) (ho : i.operands = .mem16 m :: rest) (s : State) :
    storedTo i s = some (phys s.ap m, 2) := by
  unfold storedTo; split <;> simp_all

theorem storedTo_readLine {s : State} {n : Byte} (hprint : n ≠ s.cfg.services.printNo)
    (hread : n = s.cfg.services.readLineNo) :
    storedTo (.intImm8 n) s = some (phys (servicePage s) (serviceOffset s), (drawLine s).1.length + 1) :=
  (if_neg hprint).trans (if_pos hread)

/-- Memory is as before, or some bytes are stored that fill exactly the range `storedTo` names. -/
def StoredWhereNamed (i : Instr) (s t : State) : Prop :=
  t.mem = s.mem ∨ ∃ base bs, storedTo i s = some (base, bs.length) ∧ t.mem = writeBytes s.mem base bs

theorem WroteFirst.storedWhereNamed {i : Instr} {s t : State} (hpush : i.mnemonic ≠ .push) (hint : i.mnemonic ≠ .int)
    (h : WroteFirst i s t) : StoredWhereNamed i s t := by
  obtain ⟨g, -, ⟨d, v, -, -, rfl⟩ | ⟨d, v, -, -, rfl⟩ | ⟨m, v, rest, ho, -, rfl⟩ | ⟨m, v, rest, ho, -, -, rfl⟩⟩ := h
  · exact .inl (by simp)
  · exact .inl (by simp)
  · exact .inr ⟨_, [v], storedTo_of_mem8 hpush hint ho s, rfl⟩
  · exact .inr ⟨_, wordBytes v, storedTo_of_mem16 hpush hint ho s, rfl⟩

theorem ServiceDone.storedWhereNamed {n : Byte} {s t : State} (h : ServiceDone n s t) :
    StoredWhereNamed (.intImm8 n) s t := by
  obtain ⟨-, b, rfl⟩ | ⟨hprint, hread, -, -, rfl⟩ | ⟨-, -, -, rfl⟩ := h
  · exact .inl rfl
  · refine .inr ⟨_, _, ?_, storeLine_drawLine_mem s (drawLine s).1⟩
    rw [storedTo_readLine hprint hread, List.length_append, List.length_singleton]
  · exact .inl rfl

theorem exec_storedWhereNamed {i : Instr} {s t : State} (h : exec i s = .next t) : StoredWhereNamed i s t := by
  obtain ⟨hpush, -, hint, hw⟩ | ⟨r, rfl, hpush⟩ | ⟨d, rfl, hpop⟩ | ⟨n, rfl, hint⟩ := exec_next h
  · exact hw.storedWhereNamed hpush hint
  · obtain ⟨-, -, rfl⟩ := pushWord_next.mp hpush
    exact .inr ⟨phys s.ap (readReg16 s .sp - 2), wordBytes (readReg16 s r), rfl, by simp⟩
  · obtain ⟨-, -, rfl⟩ := execPopReg16_next.mp hpop
    exact .inl (by simp)
  · exact hint.storedWhereNamed

end Sys2Proof.Machine

namespace Sys2Proof.Proofs

open Sys2Proof.Machine Sys2Proof.Spec

/-- Settles O42: memory is as before or exactly the named range is written, and a write changes nothing outside its
range. -/
theorem bytesOutsideTheStoreKeepTheirValues : Obligations.BytesOutsideTheStoreKeepTheirValues := by
  intro i s t h
  obtain hmem | ⟨base, bs, hto, hmem⟩ := exec_storedWhereNamed h
  · rw [hmem]
    exact ⟨fun _ _ _ _ _ => rfl, fun _ _ => rfl⟩
  · rw [hto, hmem]
    refine ⟨fun base' n hn a ha => ?_, nofun⟩
    cases hn
    exact readPhys_writeBytes_other s.mem bs ha

/-- Settles O48, by the laws of `phys`; page and offset of an index are its quotient and remainder by the page size. -/
theorem logicalAddressesNameDistinctBytes : Obligations.LogicalAddressesNameDistinctBytes :=
  ⟨fun _ _ _ _ => phys_inj, fun _ _ _ => phys_lt_memSize, fun _ _ ⟨_, hmax, _⟩ ha => exists_phys_eq hmax ha⟩

/-- Settles O49: each primitive is performed or refused by its bounds, and then the laws of a store say what is read. -/
theorem memoryWritesAreReadBack : Obligations.MemoryWritesAreReadBack := by
  refine fun s p o => ⟨fun hp => ?_, fun hp => ⟨memRead8_error hp, fun v => memWrite8_error hp⟩,
    fun h => ⟨memRead16_error h, fun v => memWrite16_error h⟩⟩
  have after : ∀ m, PageExists { s with mem := m } p := fun _ => hp
  refine ⟨fun v => ?_, fun ho v => ?_⟩
  · refine ⟨_, memWrite8_ok hp, rfl, ?_, fun a => readPhys_writePhys ..⟩
    rw [memRead8_ok (after _), readPhys_writePhys_same]
  · refine ⟨_, memWrite16_ok hp ho, rfl, ?_, ?_, ?_, fun a h h' => readPhys_writeBytes_word_other s.mem v h h'⟩
    · rw [memRead16_ok (after _) ho, readPhys_writeBytes_word_low, readPhys_writeBytes_word_high,
        wordOf_lowByte_highByte]
    · rw [memRead8_ok (after _), readPhys_writeBytes_word_low]
    · rw [memRead8_ok (after _), phys_add_one p ho, readPhys_writeBytes_word_high]

/-- Settles O16: a command sees an address argument only through `locate`, which puts AP where the page is missing;
RESOLVE_RANGE alone takes its page by itself. -/
theorem omittedPageIsTheActivePage : Obligations.OmittedPageIsTheActivePage := by
  intro s o stop b bytes pat fillPat a first count
  refine ⟨?_, ?_, ?_, ?_, ?_, ?_, ?_, ?_, ?_, ?resolveRange, ?_, ?_, ?_, ?_⟩
  case resolveRange => simp only [perform, resolveRange, Option.getD_none, Option.getD_some]
  all_goals
    simp only [perform, peek, poke, pokeString, fillRange, searchPage, compareRanges, moveRange, decodeCommand, diskRead,
      diskWrite, locate_offset]

end Sys2Proof.Proofs
end

section
/-! PROOFS. Decoder and encoder are inverse to each other, which opcode bytes are assigned, and what DECODE, STEP and the
listing answer for bytes that do not decode (R70, R73, R76, R80, R85, R90, R91, R95, R104). -/

namespace Sys2Proof

/-! ### Lengths (R73, R76) -/

@[simp] theorem length_encodeOperand (c : Config) (op : Operand) : (encodeOperand c op).length = op.shape.bytes := by
  cases op <;> rfl

theorem length_flatMap_encodeOperand (c : Config) (ops : List Operand) :
    (ops.flatMap (encodeOperand c)).length = ((ops.map Operand.shape).map Shape.bytes).sum := by
  rw [List.length_flatMap, List.map_map]
  congr 1
  exact List.map_congr_left fun op _ => length_encodeOperand c op

theorem length_encodeParts (c : Config) {e : Entry} {ops : List Operand} (h : ops.map Operand.shape = e.signature) :
    (encodeParts c e ops).length = entryLength e := by
  rw [encodeParts, List.length_cons, length_flatMap_encodeOperand, h, entryLength, Nat.add_comm]

/-- An instruction has two, three or four bytes (R76). -/
theorem entryLength_cases {c : Config} (h : OpTable.wf c.opTable) {e : Entry} (he : e ∈ c.opTable) :
    entryLength e = 2 ∨ entryLength e = 3 ∨ entryLength e = 4 := by
  have hsigs : ∀ m : Mnemonic, ∀ sig ∈ m.signatures,
      1 + (sig.map Shape.bytes).sum = 2 ∨ 1 + (sig.map Shape.bytes).sum = 3 ∨ 1 + (sig.map Shape.bytes).sum = 4 := by
    intro m; cases m <;> decide
  exact hsigs e.mnemonic e.signature (h.2.2.1 e he).1

/-! ### The encoder by entries (R101) -/

/-- The encoding of an instruction is its entry's opcode byte and its operands' fields. -/
theorem encode_eq_encodeParts {c : Config} (h : OpTable.wf c.opTable) {e : Entry} (he : e ∈ c.opTable) {i : Instr}
    (hm : e.mnemonic = i.mnemonic) (hs : e.signature = i.signature) : encode c i = encodeParts c e i.operands := by
  rw [encode, ← hm, ← hs, (OpTable.found h he).2]

/-- The entry an instruction is encoded by, and the number of its bytes. -/
theorem exists_entry_encode {c : Config} (h : OpTable.wf c.opTable) (i : Instr) :
    ∃ e ∈ c.opTable, e.mnemonic = i.mnemonic ∧ e.signature = i.signature ∧ encode c i = encodeParts c e i.operands ∧
      (encode c i).length = entryLength e := by
  obtain ⟨e, he, -, hm, hs⟩ := Instr.entry h i
  have henc := encode_eq_encodeParts h he hm hs
  exact ⟨e, he, hm, hs, henc, henc ▸ length_encodeParts c hs.symm⟩

/-! ### Round trips (R104) -/

/-- The decoder reads an instruction from its encoding, whatever follows. -/
theorem decode_encode_append {c : Config} (h : c.tablesWf) (i : Instr) (rest : List Byte) :
    decode c (encode c i ++ rest) = .ok (i, (encode c i).length) := by
  obtain ⟨e, he, hm, hs, henc, hlen⟩ := exists_entry_encode h.2 i
  have hfields : decodeOperands c e.signature (i.operands.flatMap (encodeOperand c) ++ rest) = .ok i.operands :=
    hs ▸ decodeOperands_encode h.1 i.operands rest
  have hlong : entryLength e ≤ (i.operands.flatMap (encodeOperand c) ++ rest).length + 1 := by
    rw [← hlen, henc, encodeParts, List.length_cons, List.length_append]; omega
  rw [hlen, henc, encodeParts, List.cons_append, decode_cons_full (OpTable.found h.2 he).1 hlong, hfields, hm]
  simp only [Instr.ofParts_parts]

/-- What the decoder reads is the instruction of some entry, with that entry's operand fields and length. -/
theorem decode_eq_ok {c : Config} (h : c.tablesWf) {bs : List Byte} {i : Instr} {n : Nat} (hd : decode c bs = .ok (i, n)) :
    ∃ e ∈ c.opTable, e.mnemonic = i.mnemonic ∧ e.signature = i.signature ∧ n = entryLength e ∧
      ∃ rest, bs = encodeParts c e i.operands ++ rest := by
  cases bs with
  | nil => cases hd
  | cons b t =>
    cases hb : entryOfOpcode c b with
    | none => rw [decode_cons_none hb] at hd; cases hd
    | some e =>
      obtain ⟨he, rfl⟩ := entryOfOpcode_eq_some hb
      by_cases hl : t.length + 1 < entryLength e
      · rw [decode_cons_short hb hl] at hd; cases hd
      · rw [decode_cons_full hb (by omega)] at hd
        split at hd
        · cases hd
        next ops hops =>
          split at hd
          next i' hi =>
            cases hd
            obtain ⟨hm, rfl⟩ := Instr.parts_of_ofParts hi
            obtain ⟨hs, rest, rfl⟩ := decodeOperands_eq_ok h.1 hops
            exact ⟨e, he, hm.symm, hs.symm, rfl, rest, rfl⟩
          · cases hd

/-! ### Unknown opcodes (R85, R90) -/

theorem decodeOperand_ne_unknownOpcode (c : Config) (sh : Shape) (bs : List Byte) :
    decodeOperand c sh bs ≠ .error .unknownOpcode := by
  unfold decodeOperand
  split <;> try split
  all_goals nofun

theorem decodeOperands_ne_unknownOpcode (c : Config) (sig : List Shape) (bs : List Byte) :
    decodeOperands c sig bs ≠ .error .unknownOpcode := by
  induction sig generalizing bs with
  | nil => nofun
  | cons s ss ih =>
    unfold decodeOperands
    split
    next e he => rintro ⟨⟩; exact decodeOperand_ne_unknownOpcode c s bs he
    next op t _ =>
      split
      next e he => rintro ⟨⟩; exact ih t he
      next => nofun

/-- Only a leading byte without an entry is an unknown opcode: an entry's operands always make an instruction. -/
theorem decode_eq_unknownOpcode_iff {c : Config} (h : c.tablesWf) (b : Byte) (rest : List Byte) :
    decode c (b :: rest) = .error .unknownOpcode ↔ entryOfOpcode c b = none := by
  refine ⟨fun hd => ?_, fun hb => decode_cons_none hb rest⟩
  cases hb : entryOfOpcode c b with
  | none => rfl
  | some e =>
    exfalso
    by_cases hl : rest.length + 1 < entryLength e
    · rw [decode_cons_short hb hl] at hd; cases hd
    · rw [decode_cons_full hb (by omega)] at hd
      split at hd
      next r hr => cases hd; exact decodeOperands_ne_unknownOpcode c _ _ hr
      next ops hops =>
        have hsig : ops.map Operand.shape ∈ e.mnemonic.signatures := by
          rw [(decodeOperands_eq_ok h.1 hops).1]
          exact (h.2.2.2.1 e (entryOfOpcode_eq_some hb).1).1
        obtain ⟨i, hi⟩ := Instr.ofParts_isSome hsig
        rw [hi] at hd; cases hd

/-- The opcode bytes of the spec's table, as numbers (R81 to R83). -/
theorem specOpTable_opcodes : Machine.specOpTable.map (fun e => e.opcode.toNat) =
    List.range' 0x10 8 ++ List.range' 0x20 8 ++ List.range' 0x30 8 ++ List.range' 0x40 8 ++ List.range' 0x50 8 ++
      List.range' 0x60 8 ++ List.range' 0x70 16 ++ [0x80, 0x81, 0x90] := by
  decide

theorem entryOfOpcode_eq_none_iff {c : Config} {b : Byte} :
    entryOfOpcode c b = none ↔ b.toNat ∉ c.opTable.map (fun e => e.opcode.toNat) := by
  simp [entryOfOpcode, BitVec.toNat_inj]

/-! ### Bytes cut short (R91) -/

/-- The bytes of an instruction cut short, its leading byte kept, are truncated. -/
theorem decode_take_encode {c : Config} (h : OpTable.wf c.opTable) (i : Instr) {k : Nat} (hk : 0 < k)
    (hlt : k < (encode c i).length) : decode c ((encode c i).take k) = .error .truncated := by
  obtain ⟨e, he, -, -, henc, hlen⟩ := exists_entry_encode h i
  obtain ⟨k, rfl⟩ := Nat.exists_eq_add_one.mpr hk
  rw [hlen] at hlt
  rw [henc, encodeParts, List.take_succ_cons]
  refine decode_cons_short (OpTable.found h he).1 ?_
  rw [List.length_take]
  omega

end Sys2Proof

namespace Sys2Proof.Machine

open Sys2Proof.Spec

/-! ### The bytes the decoder is given (R90, R91) -/

theorem readBytes_add (m : Memory) (a n k : Nat) : readBytes m a (n + k) = readBytes m a n ++ readBytes m (a + n) k := by
  simp [readBytes, List.range_add, Nat.add_assoc]

theorem readBytes_succ (m : Memory) (a n : Nat) : readBytes m a (n + 1) = readPhys m a :: readBytes m (a + 1) n := by
  rw [Nat.add_comm, readBytes_add]; rfl

theorem getElem?_readBytes {m : Memory} {a n i : Nat} (h : i < n) : (readBytes m a n)[i]? = some (readPhys m (a + i)) := by
  rw [List.getElem?_eq_getElem (by simpa using h), getElem_readBytes]

/-- The window is the leading byte and the bytes after it. -/
theorem fetchWindow_eq_cons_readBytes (s : State) (p o : Word) :
    fetchWindow s p o = byteAt s p o :: readBytes s.mem (phys p o + 1) (min 4 (pageSize - o.toNat) - 1) := by
  obtain ⟨n, hn⟩ : ∃ n, min 4 (pageSize - o.toNat) = n + 1 :=
    Nat.exists_eq_add_one.mpr (by have := o.isLt; rw [pageSize]; omega)
  rw [fetchWindow, hn, readBytes_succ, Nat.add_sub_cancel, byteAt]

/-- At most four bytes that stand at an address within the page stand at the head of the window. -/
theorem fetchWindow_eq_append {s : State} {p o : Word} {bs : List Byte} (hlen : bs.length ≤ 4)
    (hpage : o.toNat + bs.length ≤ pageSize) (h : readBytes s.mem (phys p o) bs.length = bs) :
    ∃ rest, fetchWindow s p o = bs ++ rest := by
  obtain ⟨k, hk⟩ := Nat.exists_eq_add_of_le (show bs.length ≤ min 4 (pageSize - o.toNat) by omega)
  exact ⟨_, by rw [fetchWindow, hk, readBytes_add, h]⟩

theorem decode_fetchWindow_truncated {s : State} {p o : Word} {e : Entry}
    (he : entryOfOpcode s.cfg (byteAt s p o) = some e) (hpast : 0xFFFF < o.toNat + entryLength e - 1) :
    Sys2Proof.decode s.cfg (fetchWindow s p o) = .error .truncated := by
  rw [fetchWindow_eq_cons_readBytes]
  refine decode_cons_short he ?_
  rw [length_readBytes, pageSize]
  have := o.isLt
  omega

theorem decode_fetchWindow_badRegister {s : State} (h : s.cfg.tablesWf) {p o : Word} {e : Entry} {pre post : List Shape}
    {sh : Shape} (he : entryOfOpcode s.cfg (byteAt s p o) = some e) (hpage : o.toNat + entryLength e - 1 ≤ 0xFFFF)
    (hsig : e.signature = pre ++ sh :: post)
    (hbad : BadRegister s.cfg sh (readPhys s.mem (phys p o + 1 + (pre.map Shape.bytes).sum))) :
    Sys2Proof.decode s.cfg (fetchWindow s p o) = .error .badRegisterIndex := by
  have hfour := entryLength_cases h.2 (entryOfOpcode_eq_some he).1
  have hsh : 1 ≤ sh.bytes := by cases sh <;> decide
  have hfield : (pre.map Shape.bytes).sum + 2 ≤ entryLength e := by
    rw [entryLength, hsig, List.map_append, List.map_cons, List.sum_append, List.sum_cons]; omega
  have hwindow : entryLength e ≤ min 4 (pageSize - o.toNat) := by rw [pageSize]; omega
  have hfields : decodeOperands s.cfg e.signature (readBytes s.mem (phys p o + 1) (min 4 (pageSize - o.toNat) - 1)) =
      .error .badRegisterIndex := by
    rw [hsig]
    exact decodeOperands_badRegister hbad (by rw [length_readBytes]; omega) (getElem?_readBytes (by omega))
  rw [fetchWindow_eq_cons_readBytes, decode_cons_full he (by rw [length_readBytes]; omega), hfields]

/-! ### DECODE (R90) -/

theorem locate_of_names {s : State} {a : Addr} {p o : Word} (h : Names s a p o) : locate s a = locate s (.full p o) := by
  obtain rfl | ⟨rfl, rfl⟩ := h
  · rfl
  · exact locate_offset s o

section Decode
variable {s : State} {a : Addr} {p o : Word} (hn : Names s a p o)
include hn

theorem perform_decode_outOfRange (hp : ¬ PageExists s p) : perform (.decode a) s = .fault .outOfRange := by
  simp only [perform, decodeCommand, locate_of_names hn, locate_error o hp, answer]

variable (hp : PageExists s p)
include hp

theorem perform_decode_ok {i : Instr} {n : Nat} (h : Sys2Proof.decode s.cfg (fetchWindow s p o) = .ok (i, n)) :
    perform (.decode a) s = .next (.decoded i n (o + BitVec.ofNat 16 n), s) := by
  simp only [perform, decodeCommand, locate_of_names hn, locate_ok o hp, h, answer, id]

theorem perform_decode_error {reason : DiagReason} (h : Sys2Proof.decode s.cfg (fetchWindow s p o) = .error reason) :
    perform (.decode a) s = .next (.diagnostic o (byteAt s p o) reason, s) := by
  simp only [perform, decodeCommand, locate_of_names hn, locate_ok o hp, h, answer, id]

/-- DECODE answers a diagnostic only for a window that does not decode, and gives its reason. -/
theorem decode_of_perform_diagnostic {reason : DiagReason}
    (h : perform (.decode a) s = .next (.diagnostic o (byteAt s p o) reason, s)) :
    Sys2Proof.decode s.cfg (fetchWindow s p o) = .error reason := by
  cases hd : Sys2Proof.decode s.cfg (fetchWindow s p o) with
  | ok r => rw [perform_decode_ok hn hp hd] at h; cases h
  | error reason' => rw [perform_decode_error hn hp hd] at h; cases h; rfl

end Decode

theorem add_ofNat_eq_ofNat_mod (o : Word) (n : Nat) : o + BitVec.ofNat 16 n = BitVec.ofNat 16 ((o.toNat + n) % 65536) := by
  apply BitVec.eq_of_toNat_eq
  simp only [BitVec.toNat_add, BitVec.toNat_ofNat]
  omega

/-- DECODE reads the instruction whose encoding stands at the address within the page. -/
theorem perform_decode_of_encode {s : State} {a : Addr} {p o : Word} (hn : Names s a p o) (hp : PageExists s p)
    (hwf : s.cfg.tablesWf) {i : Instr} (hpage : o.toNat + (encode s.cfg i).length - 1 ≤ 0xFFFF)
    (h : readBytes s.mem (phys p o) (encode s.cfg i).length = encode s.cfg i) :
    perform (.decode a) s = .next (.decoded i (encode s.cfg i).length
      (BitVec.ofNat 16 ((o.toNat + (encode s.cfg i).length) % 65536)), s) := by
  obtain ⟨e, he, -, -, -, hlen⟩ := exists_entry_encode hwf.2 i
  have hfour := entryLength_cases hwf.2 he
  obtain ⟨rest, hrest⟩ := fetchWindow_eq_append (by omega) (by rw [pageSize]; omega) h
  rw [perform_decode_ok hn hp (hrest ▸ decode_encode_append hwf i rest), add_ofNat_eq_ofNat_mod]

/-! ### The listing (R95) -/

/-- The listing goes on one byte after a diagnostic. -/
theorem disasmFrom_of_decode_error {c : Config} {m : Memory} {p : Word} {last k o : Nat} {reason : DiagReason}
    (ho : o ≤ last)
    (h : Sys2Proof.decode c (readBytes m (p.toNat * pageSize + o) (min 4 (last + 1 - o))) = .error reason) :
    disasmFrom c m p last (k + 1) o =
      .diagnostic (BitVec.ofNat 16 o) (readPhys m (p.toNat * pageSize + o)) reason (o + 1) ::
        disasmFrom c m p last k (o + 1) := by
  simp only [disasmFrom, ho, if_true, h]

end Sys2Proof.Machine

namespace Sys2Proof.Proofs

open Sys2Proof.Machine Sys2Proof.Spec

/-- Settles O1: the entry found by the instruction's key is the one its opcode byte selects, and fields decode to their
operands. -/
theorem decodeEncodeRoundTrip : Obligations.DecodeEncodeRoundTrip := fun _ hwf i rest => decode_encode_append hwf i rest

/-- Settles O2: what is decoded is the opcode byte and the fields of one entry, which the instruction's key finds again. -/
theorem decodedBytesAreTheEncoding : Obligations.DecodedBytesAreTheEncoding := by
  intro c hwf bs i n hd
  obtain ⟨e, he, hm, hs, rfl, rest, rfl⟩ := decode_eq_ok hwf hd
  have hlen : (encodeParts c e i.operands).length = entryLength e := length_encodeParts c hs.symm
  refine ⟨(decode_length hd).2, entryLength_cases hwf.2 he, ?_⟩
  rw [encode_eq_encodeParts hwf.2 he hm hs, ← hlen, List.take_left]

/-- Settles O4: an unknown opcode is a byte without an entry, and the table's opcodes are these ranges. -/
theorem unassignedOpcodesAreRejected : Obligations.UnassignedOpcodesAreRejected := by
  intro c b rest ⟨hreg, hop⟩
  have hwf : c.tablesWf := ⟨regTable_wf_of_spec hreg, hop ▸ specOpTable_wf⟩
  rw [decode_eq_unknownOpcode_iff hwf, entryOfOpcode_eq_none_iff, hop, specOpTable_opcodes, not_iff_not]
  simp only [List.mem_append, List.mem_range'_1, List.mem_cons, List.not_mem_nil, or_false]
  omega

/-- Settles O5: DECODE answers what the decoder makes of the bytes from the address to the end of the page, and STEP and the
listing report the decoder's reason. -/
theorem decodeAnswersInstructionOrDiagnostic : Obligations.DecodeAnswersInstructionOrDiagnostic := by
  refine ⟨fun s a p o hwf hn => ⟨perform_decode_outOfRange hn, fun hp => ⟨?_, ?_, ?_, ?_⟩⟩,
    fun c hwf i k => decode_take_encode hwf.2 i, fun s reason hp hdiag => ?_,
    fun c m p last k o reason ho h => disasmFrom_of_decode_error ho h⟩
  · exact fun i hpage hbytes => perform_decode_of_encode hn hp hwf hpage hbytes
  · intro hnone
    refine perform_decode_error hn hp ?_
    rw [fetchWindow_eq_cons_readBytes, decode_cons_none hnone]
  · exact fun e he hpast => perform_decode_error hn hp (decode_fetchWindow_truncated he hpast)
  · exact fun e pre post sh he hpage hsig hbad =>
      perform_decode_error hn hp (decode_fetchWindow_badRegister hwf he hpage hsig hbad)
  · exact step_of_decode_error hp (decode_of_perform_diagnostic (.inr ⟨rfl, rfl⟩) hp hdiag)

end Sys2Proof.Proofs
end

section
/-! PROOFS. Assembling the disassembler's text of an instruction: its line splits into the mnemonic and the operand texts,
each operand text has the operand among its readings, and the spec's table has no earlier entry that those readings fit
(R96, R98 to R101, R104). -/

namespace Sys2Proof.Machine

/-! ### Tokens (R98) -/

/-- The texts `tokenize` can answer: not empty, and without a separator. -/
def IsToken (t : Text) : Prop := t ≠ [] ∧ t.any isSeparator = false

/-- A text without a separator is put before the first piece of the rest of the line. -/
theorem foldr_consChar_append {w : Text} (hw : w.any isSeparator = false) {line t : Text} {ts : List Text}
    (h : line.foldr consChar [[]] = t :: ts) : (w ++ line).foldr consChar [[]] = (w ++ t) :: ts := by
  induction w with
  | nil => exact h
  | cons ch w ih =>
    obtain ⟨hch, hw⟩ := Bool.or_eq_false_iff.mp (List.any_cons ▸ hw)
    rw [List.cons_append, List.foldr_cons, ih hw, consChar, hch]
    rfl

theorem tokenize_separator {ch : Char} (h : isSeparator ch = true) (line : Text) :
    tokenize (ch :: line) = tokenize line := by
  simp [tokenize, consChar, h]

theorem tokenize_token {w : Text} (hw : IsToken w) : tokenize w = [w] := by
  have hfold := foldr_consChar_append hw.2 (line := []) rfl
  rw [List.append_nil] at hfold
  simp [tokenize, hfold, hw.1]

theorem tokenize_token_separator {w : Text} (hw : IsToken w) {ch : Char} (h : isSeparator ch = true) (line : Text) :
    tokenize (w ++ ch :: line) = w :: tokenize line := by
  have hpieces : (ch :: line).foldr consChar [[]] = [] :: line.foldr consChar [[]] := if_pos h
  have hfold := foldr_consChar_append hw.2 hpieces
  simp [tokenize, hfold, hw.1]

/-- Tokens joined by a comma and a space split into those tokens. -/
theorem tokenize_intercalate {ws : List Text} (hws : ∀ w ∈ ws, IsToken w) :
    tokenize ([',', ' '].intercalate ws) = ws := by
  induction ws with
  | nil => rfl
  | cons w ws ih =>
    obtain ⟨hw, hws⟩ := List.forall_mem_cons.mp hws
    cases ws with
    | nil => simpa using tokenize_token hw
    | cons w' ws =>
      rw [List.intercalate_cons_cons, List.append_assoc, List.cons_append, tokenize_token_separator hw rfl,
        List.cons_append, tokenize_separator rfl, List.nil_append, ih hws]

/-! ### Hexadecimal digits and numerals (R96, R99) -/

theorem isSeparator_hexChar {n : Nat} (h : n < 16) : isSeparator (hexChar n) = false := by
  revert n; decide

theorem digitIn_hexChar {n : Nat} (h : n < 16) : digitIn 16 (hexChar n) = some n := by
  revert n; decide

/-- A rendered digit, being upper case, is no letter that marks a base after a leading 0. -/
theorem hexChar_ne_baseLetter {n : Nat} (h : n < 16) : hexChar n ≠ 'x' ∧ hexChar n ≠ 'X' ∧ hexChar n ≠ 'b' := by
  revert n; decide

theorem numeral_singleton {base d : Nat} {ch : Char} (h : digitIn base ch = some d) : numeral base [ch] = some d := by
  simp [numeral, h]

theorem numeral_concat {base n d : Nat} {t : Text} {ch : Char} (ht : numeral base t = some n)
    (h : digitIn base ch = some d) : numeral base (t ++ [ch]) = some (base * n + d) := by
  unfold numeral at ht ⊢
  split at ht
  · cases ht
  · simp [List.foldl_append, ht, h]

theorem numeral_hex2 (b : Byte) : numeral 16 (hex2 b) = some b.toNat := by
  have hhigh : b.toNat / 16 < 16 := by omega
  have hlow : b.toNat % 16 < 16 := Nat.mod_lt _ (by decide)
  have h := numeral_concat (numeral_singleton (digitIn_hexChar hhigh)) (digitIn_hexChar hlow)
  rwa [Nat.div_add_mod] at h

theorem numeral_append_hex2 {n : Nat} {t : Text} (ht : numeral 16 t = some n) (b : Byte) :
    numeral 16 (t ++ hex2 b) = some (256 * n + b.toNat) := by
  have hhigh : b.toNat / 16 < 16 := by omega
  have hlow : b.toNat % 16 < 16 := Nat.mod_lt _ (by decide)
  have h := numeral_concat (numeral_concat ht (digitIn_hexChar hhigh)) (digitIn_hexChar hlow)
  rw [List.append_assoc, List.singleton_append, ← hex2] at h
  rw [h]
  congr 1
  omega

theorem numeral_hex4 (v : Word) : numeral 16 (hex4 v) = some v.toNat := by
  rw [hex4, numeral_append_hex2 (numeral_hex2 _), toNat_highByte, toNat_lowByte, Nat.div_add_mod]

/-! ### The texts of the disassembler are tokens (R96) -/

theorem isToken_mnemonicName (m : Mnemonic) : IsToken m.name := by
  cases m <;> exact ⟨List.cons_ne_nil _ _, rfl⟩

theorem isToken_regText (n : RegName) : IsToken n.text := by
  rcases n with r | r <;> cases r <;> exact ⟨List.cons_ne_nil _ _, rfl⟩

theorem hex2_any_isSeparator (b : Byte) : (hex2 b).any isSeparator = false := by
  have hhigh : b.toNat / 16 < 16 := by omega
  have hlow : b.toNat % 16 < 16 := Nat.mod_lt _ (by decide)
  simp [hex2, isSeparator_hexChar hhigh, isSeparator_hexChar hlow]

theorem hex4_any_isSeparator (v : Word) : (hex4 v).any isSeparator = false := by
  rw [hex4, List.any_append, hex2_any_isSeparator, hex2_any_isSeparator]; rfl

theorem isToken_operandText (op : Operand) : IsToken (operandText op) := by
  cases op with
  | reg8 r => exact isToken_regText (.reg8 r)
  | reg16 r => exact isToken_regText (.reg16 r)
  | imm8 v => exact ⟨List.cons_ne_nil _ _, hex2_any_isSeparator v⟩
  | imm16 v => exact ⟨List.cons_ne_nil _ _, hex4_any_isSeparator v⟩
  | mem8 m | mem16 m | rel8 m | rel16 m => exact ⟨List.cons_ne_nil _ _, hex4_any_isSeparator m⟩

/-- The line of an instruction splits into its mnemonic and its operand texts. -/
theorem tokenize_instrText (i : Instr) : tokenize (instrText i) = i.mnemonic.name :: i.operands.map operandText := by
  rw [instrText, tokenize_token_separator (isToken_mnemonicName _) rfl, tokenize_intercalate]
  exact List.forall_mem_map.mpr fun op _ => isToken_operandText op

/-! ### The readings of an operand text (R99) -/

/-- Every name has two characters, so a text of another length names no register. -/
theorem regOfName_eq_none_of_length {c : Config} (h : RegTable.wf c.regTable) {t : Text} (ht : t.length ≠ 2) :
    regOfName c t = none := by
  have hnames : ∀ n : RegName, n.text.length = 2 := by rintro (r | r) <;> cases r <;> rfl
  refine Option.eq_none_iff_forall_ne_some.mpr fun n hn => ht ?_
  rw [← hnames n, ← (regOfName_eq_some_iff h).mp hn, upperText, List.length_map]

/-- The reading of an operand's text that means the operand. -/
def ownReading : Operand → Reading
  | .reg8 r => .reg8 r
  | .reg16 r => .reg16 r
  | .imm8 v => .imm v.toNat
  | .imm16 v => .imm v.toNat
  | .mem8 m | .mem16 m | .rel8 m | .rel16 m => .mem m.toNat

/-- The shapes that are rendered as an offset (R96). -/
def offsetShapes : List Shape := [.mem8, .mem16, .rel8, .rel16]

section Readings
variable {c : Config} (h : RegTable.wf c.regTable)
include h

theorem classify_hexLiteral {ds : Text} {v : Nat} (hds : ds ≠ []) (hv : numeral 16 ds = some v) :
    classify c ('0' :: 'x' :: ds) = [.imm v] := by
  have hlen : ('0' :: 'x' :: ds).length ≠ 2 := by simpa using hds
  rw [classify, regOfName_eq_none_of_length h hlen]
  simp [hv]

/-- Four bare digits are an offset, and perhaps also a decimal immediate, which then comes first. -/
theorem classify_hex4 (m : Word) :
    classify c (hex4 m) = [.mem m.toNat] ∨ ∃ v, classify c (hex4 m) = [.imm v, .mem m.toNat] := by
  have hbare : classify c (hex4 m) = bareReadings (hex4 m) := by
    obtain ⟨hx, hX, hb⟩ := hexChar_ne_baseLetter (show (highByte m).toNat % 16 < 16 by omega)
    rw [classify, regOfName_eq_none_of_length h (by simp [hex4, hex2])] <;> simp [hex4, hex2, hx, hX, hb]
  rw [hbare, bareReadings, numeral_hex4]
  cases numeral 10 (hex4 m) with
  | none => exact .inl rfl
  | some v => exact .inr ⟨v, rfl⟩

/-- An operand text has the operand's own reading; an offset whose digits are all decimal has an immediate before it. -/
theorem classify_operandText (op : Operand) :
    classify c (operandText op) = [ownReading op] ∨
      op.shape ∈ offsetShapes ∧ ∃ v, classify c (operandText op) = [.imm v, ownReading op] := by
  cases op with
  | reg8 r =>
    have hname : regOfName c (operandText (.reg8 r)) = some (.reg8 r) := regOfName_text h (.reg8 r)
    exact .inl (by unfold classify; rw [hname]; rfl)
  | reg16 r =>
    have hname : regOfName c (operandText (.reg16 r)) = some (.reg16 r) := regOfName_text h (.reg16 r)
    exact .inl (by unfold classify; rw [hname]; rfl)
  | imm8 v => exact .inl (classify_hexLiteral h (List.cons_ne_nil _ _) (numeral_hex2 v))
  | imm16 v => exact .inl (classify_hexLiteral h (List.cons_ne_nil _ _) (numeral_hex4 v))
  | mem8 m | mem16 m | rel8 m | rel16 m =>
    exact (classify_hex4 h m).imp_right fun hv => ⟨by simp [offsetShapes, Operand.shape], hv⟩

end Readings

/-! ### What an operand text fits (R99) -/

/-- The shapes a reading may fit. -/
def Reading.shapes : Reading → List Shape
  | .reg8 _ => [.reg8]
  | .reg16 _ => [.reg16]
  | .imm _ => [.imm8, .imm16]
  | .mem _ => [.mem8, .mem16]

theorem mem_shapes_of_fit {r : Reading} {sh : Shape} {op : Operand} (h : r.fit sh = some op) : sh ∈ r.shapes := by
  cases r <;> cases sh <;> simp [Reading.fit, Reading.shapes] at h ⊢

/-- A reading that fits a shape is within 16 bits. -/
theorem inRange_of_fit {r : Reading} {sh : Shape} {op : Operand} (h : r.fit sh = some op) : r.inRange = true := by
  cases r with
  | reg8 | reg16 => rfl
  | imm v | mem v =>
    cases sh <;> simp only [Reading.fit, reduceCtorEq, Option.ite_none_right_eq_some] at h
    all_goals exact decide_eq_true (by omega)

theorem malformed_of_fitToken {c : Config} {t : Text} {sh : Shape} {op : Operand} (h : fitToken c t sh = some op) :
    malformed c t = false := by
  obtain ⟨r, hr, hfit⟩ := List.exists_of_findSome?_eq_some h
  rw [malformed, List.any_eq_true.mpr ⟨r, hr, inRange_of_fit hfit⟩]
  rfl

theorem fit_ownReading {op : Operand} (hop : op.shape ∉ [.rel8, .rel16]) : (ownReading op).fit op.shape = some op := by
  cases op with
  | reg8 | reg16 => rfl
  | imm8 v | imm16 v | mem8 v | mem16 v =>
    simp only [ownReading, Operand.shape, Reading.fit, if_pos (Nat.le_of_lt_succ v.isLt), BitVec.ofNat_toNat,
      BitVec.setWidth_eq]
  | rel8 | rel16 => simp [Operand.shape] at hop

/-- The shapes that a text of an operand of the given shape may fit: an offset's digits may also be decimal. -/
def textShapes : Shape → List Shape
  | .reg8 => [.reg8]
  | .reg16 => [.reg16]
  | .imm8 | .imm16 => [.imm8, .imm16]
  | .mem8 | .mem16 | .rel8 | .rel16 => [.imm8, .imm16, .mem8, .mem16]

theorem shapes_ownReading_subset (op : Operand) : (ownReading op).shapes ⊆ textShapes op.shape := by
  cases op <;> simp [ownReading, Reading.shapes, textShapes, Operand.shape]

theorem immShapes_subset_of_offset : ∀ sh ∈ offsetShapes, [.imm8, .imm16] ⊆ textShapes sh := by decide

section Fits
variable {c : Config} (h : RegTable.wf c.regTable)
include h

/-- The text of an operand gives back the operand at a position of its shape. -/
theorem fitToken_operandText {op : Operand} (hop : op.shape ∉ [.rel8, .rel16]) :
    fitToken c (operandText op) op.shape = some op := by
  have hown := fit_ownReading hop
  obtain hc | ⟨hoff, v, hc⟩ := classify_operandText h op
  · rw [fitToken, hc, List.findSome?_cons, hown]
  · have himm : Reading.fit (.imm v) op.shape = none := by
      have hnot : ∀ sh ∈ offsetShapes, Reading.fit (.imm v) sh = none := by simp [offsetShapes, Reading.fit]
      exact hnot _ hoff
    rw [fitToken, hc, List.findSome?_cons, himm, List.findSome?_cons, hown]

/-- The text of an operand fits no shape but these. -/
theorem mem_textShapes_of_fitToken {op op' : Operand} {sh : Shape} (hfit : fitToken c (operandText op) sh = some op') :
    sh ∈ textShapes op.shape := by
  obtain ⟨r, hr, hrfit⟩ := List.exists_of_findSome?_eq_some hfit
  have hsh := mem_shapes_of_fit hrfit
  obtain hc | ⟨hoff, v, hc⟩ := classify_operandText h op <;> rw [hc] at hr
  · rw [List.mem_singleton.mp hr] at hsh
    exact shapes_ownReading_subset op hsh
  · obtain rfl | hr := List.mem_cons.mp hr
    · exact immShapes_subset_of_offset _ hoff hsh
    · rw [List.mem_singleton.mp hr] at hsh
      exact shapes_ownReading_subset op hsh

end Fits

/-! ### The lookup (R100, R101) -/

/-- The shape of an entry at a position is fitted by the token there. -/
def fitsAt (c : Config) (p : Text × Nat) (e : Entry) : Bool := ((e.signature[p.2]?).bind (fitToken c p.1)).isSome

/-- The lookup narrows to the entries that every token fits, where there is one. -/
theorem narrow_eq_filter {c : Config} {es : List Entry} {ts : List (Text × Nat)} {e : Entry} (he : e ∈ es)
    (hfit : ∀ p ∈ ts, fitsAt c p e = true) : narrow c es ts = .ok (es.filter fun x => ts.all fun p => fitsAt c p x) := by
  induction ts generalizing es with
  | nil => simp [narrow]
  | cons p ts ih =>
    obtain ⟨hp, hts⟩ := List.forall_mem_cons.mp hfit
    have hkept : e ∈ es.filter (fitsAt c p) := List.mem_filter.mpr ⟨he, hp⟩
    have hne : ¬ (es.filter (fitsAt c p)).isEmpty = true := by
      rw [List.isEmpty_iff]; exact List.ne_nil_of_mem hkept
    calc narrow c es (p :: ts) = narrow c (es.filter (fitsAt c p)) ts := if_neg hne
      _ = .ok ((es.filter (fitsAt c p)).filter fun x => ts.all fun q => fitsAt c q x) := ih hkept hts
      _ = .ok (es.filter fun x => (p :: ts).all fun q => fitsAt c q x) := by
        simp only [List.filter_filter, List.all_cons, Bool.and_comm]

/-- The mnemonic and the operand count are the entry's (R100). -/
def isCandidate (m : Mnemonic) (count : Nat) (e : Entry) : Bool := e.mnemonic == m && e.signature.length == count

/-- The assembler may choose the entry: it is a candidate that every token fits. -/
def entryFits (c : Config) (m : Mnemonic) (toks : List Text) (e : Entry) : Bool :=
  toks.zipIdx.all (fun p => fitsAt c p e) && isCandidate m toks.length e

/-- The assembler emits the first entry of the table that the line fits. -/
theorem assembleOperands_eq_ok {c : Config} {m : Mnemonic} {toks : List Text} {e : Entry}
    (h : c.opTable.find? (entryFits c m toks) = some e) (mn : Text) :
    assembleOperands c mn m toks = .ok (encodeParts c e (operandsFor c e toks)) := by
  obtain ⟨hfit, hcand⟩ := Bool.and_eq_true_iff.mp (List.find?_some h : entryFits c m toks e = true)
  have he : e ∈ c.opTable.filter (isCandidate m toks.length) :=
    List.mem_filter.mpr ⟨List.mem_of_find?_eq_some h, hcand⟩
  have hne : ¬ (c.opTable.filter (isCandidate m toks.length)).isEmpty = true := by
    rw [List.isEmpty_iff]; exact List.ne_nil_of_mem he
  obtain ⟨es, hes⟩ := List.head?_eq_some_iff.mp (List.head?_filter.trans h)
  have hnarrow : narrow c (c.opTable.filter (isCandidate m toks.length)) toks.zipIdx = .ok (e :: es) := by
    rw [narrow_eq_filter he (List.all_eq_true.mp hfit), List.filter_filter]
    exact congrArg Except.ok hes
  unfold assembleOperands
  refine (if_neg hne).trans ?_
  delta isCandidate at hnarrow
  rw [hnarrow]

/-- An operand list gives itself back through its texts, at an entry of its shapes. -/
theorem operandsFor_operandText {c : Config} (h : RegTable.wf c.regTable) {e : Entry} {ops : List Operand}
    (hops : ∀ op ∈ ops, op.shape ∉ [.rel8, .rel16]) (hs : e.signature = ops.map Operand.shape) :
    operandsFor c e (ops.map operandText) = ops := by
  rw [operandsFor, hs, List.zip_map', List.filterMap_map]
  calc _ = ops.filterMap some := List.filterMap_congr fun op hop => fitToken_operandText h (hops op hop)
    _ = ops := List.filterMap_some

/-! ### The first entry that fits (R81 to R84, R100) -/

/-- An entry that the texts of operands of the given shapes may fit. -/
def mayFit (m : Mnemonic) (sig : List Shape) (e : Entry) : Bool :=
  sig.zipIdx.all (fun p => (e.signature[p.2]?).any fun sh => (textShapes p.1).contains sh) && isCandidate m sig.length e

/-- In the spec's table no entry stands before another whose operand texts it may fit. -/
theorem specOpTable_find?_mayFit : ∀ e ∈ specOpTable, specOpTable.find? (mayFit e.mnemonic e.signature) = some e := by
  decide +kernel

theorem mayFit_of_entryFits {c : Config} (h : RegTable.wf c.regTable) {m : Mnemonic} {ops : List Operand} {e : Entry}
    (hfit : entryFits c m (ops.map operandText) e = true) : mayFit m (ops.map Operand.shape) e = true := by
  rw [entryFits, Bool.and_eq_true, List.length_map, List.zipIdx_map, List.all_map, List.all_eq_true] at hfit
  rw [mayFit, Bool.and_eq_true, List.length_map, List.zipIdx_map, List.all_map, List.all_eq_true]
  refine hfit.imp_left fun hall p hp => ?_
  obtain ⟨op, hbind⟩ := Option.isSome_iff_exists.mp (hall p hp)
  obtain ⟨sh, hsh, hop⟩ := Option.bind_eq_some_iff.mp hbind
  rw [Prod.map_snd, id] at hsh
  simp [hsh, mem_textShapes_of_fitToken h hop]

theorem entryFits_of_signature {c : Config} (h : RegTable.wf c.regTable) {ops : List Operand} {e : Entry}
    (hops : ∀ op ∈ ops, op.shape ∉ [.rel8, .rel16]) (hs : e.signature = ops.map Operand.shape) :
    entryFits c e.mnemonic (ops.map operandText) e = true := by
  have hcand : isCandidate e.mnemonic (ops.map operandText).length e = true := by simp [isCandidate, hs]
  rw [entryFits, hcand, Bool.and_true, List.zipIdx_map, List.all_map, List.all_eq_true]
  intro p hp
  have hget : ops[p.2]? = some p.1 := List.mem_zipIdx_iff_getElem?.mp hp
  have hfit := fitToken_operandText h (hops p.1 (List.mem_of_getElem? hget))
  simp [fitsAt, hs, hget, hfit]

/-- The first row that meets a condition is the first that meets a stronger one, if it meets that. -/
theorem find?_eq_some_of_imp {α : Type} {p q : α → Bool} {l : List α} {a : α} (himp : ∀ x, p x = true → q x = true)
    (h : l.find? q = some a) (ha : p a = true) : l.find? p = some a := by
  obtain ⟨-, as, bs, rfl, has⟩ := List.find?_eq_some_iff_append.mp h
  refine List.find?_eq_some_iff_append.mpr ⟨ha, as, bs, rfl, fun x hx => ?_⟩
  rw [Bool.not_eq_true', ← Bool.not_eq_true]
  exact fun hp => by simpa [himp x hp] using has x hx

/-! ### Assembling an instruction's text (R98, R104) -/

theorem assemble_of_tokens {c : Config} {line : Text} {m : Mnemonic} {toks : List Text}
    (h : tokenize line = m.name :: toks) (htoks : ∀ t ∈ toks, malformed c t = false) :
    assemble c line = assembleOperands c m.name m toks := by
  have hnone : toks.find? (malformed c) = none :=
    List.find?_eq_none.mpr fun t ht => by simp [htoks t ht]
  simp only [assemble, h, Mnemonic.ofName_name, hnone]

/-- No operand of an instruction is relative (R85). -/
theorem shape_not_relative (i : Instr) : ∀ op ∈ i.operands, op.shape ∉ [.rel8, .rel16] := by
  have hsigs : ∀ m : Mnemonic, ∀ sig ∈ m.signatures, ∀ sh ∈ sig, sh ∉ [Shape.rel8, .rel16] := by
    intro m; cases m <;> decide
  exact fun op hop => hsigs _ _ i.signature_mem _ (List.mem_map_of_mem hop)

theorem find?_entryFits {c : Config} (hreg : RegTable.wf c.regTable) (hop : c.opTable = specOpTable) {i : Instr}
    {e : Entry} (he : e ∈ c.opTable) (hm : e.mnemonic = i.mnemonic) (hs : e.signature = i.signature) :
    c.opTable.find? (entryFits c i.mnemonic (i.operands.map operandText)) = some e := by
  have hfirst := specOpTable_find?_mayFit e (hop ▸ he)
  have hown := entryFits_of_signature hreg (shape_not_relative i) hs
  rw [hm] at hown
  rw [hm, hs, ← hop] at hfirst
  exact find?_eq_some_of_imp (fun _ => mayFit_of_entryFits hreg) hfirst hown

end Sys2Proof.Machine

namespace Sys2Proof.Proofs

open Sys2Proof.Machine Sys2Proof.Spec

/-- Settles O8: the line splits into the rendered texts, whose readings give the operands back, and the first entry of the
spec's table that fits them is the instruction's own. -/
theorem textAssemblesToTheEncoding : Obligations.TextAssemblesToTheEncoding := by
  intro c i ⟨hreg, hop⟩
  have hwf := regTable_wf_of_spec hreg
  have hrel := shape_not_relative i
  obtain ⟨e, he, hm, hs, henc, -⟩ := exists_entry_encode (hop ▸ specOpTable_wf) i
  have htoks : ∀ t ∈ i.operands.map operandText, malformed c t = false :=
    List.forall_mem_map.mpr fun op hmem => malformed_of_fitToken (fitToken_operandText hwf (hrel op hmem))
  calc assemble c (instrText i)
      = assembleOperands c i.mnemonic.name i.mnemonic (i.operands.map operandText) :=
        assemble_of_tokens (tokenize_instrText i) htoks
    _ = .ok (encodeParts c e (operandsFor c e (i.operands.map operandText))) :=
        assembleOperands_eq_ok (find?_entryFits hwf hop he hm hs) _
    _ = .ok (encode c i) := by rw [operandsFor_operandText hwf hrel hs, henc]

end Sys2Proof.Proofs
end

section
/-! PROOFS. The ALU in numbers, at any width: a sum and a difference with their carry, overflow and auxiliary carry, and the
flags of a result (R130 to R132). -/

namespace Sys2Proof.Machine

open Sys2Proof.Spec

/-! ### The flags of a result (R130) -/

theorem msb_eq_topBit {w : Nat} (r : BitVec w) : r.msb = topBit r := BitVec.msb_eq_decide r

theorem sfOf_eq_topBit {w : Nat} (r : BitVec w) : sfOf r = topBit r := msb_eq_topBit r

theorem zfOf_iff {w : Nat} (r : BitVec w) : zfOf r = true ↔ r.toNat = 0 := decide_eq_true_iff

/-- How many members of a list satisfy `p` is even exactly when the exclusive or of `p` over the list is false. -/
theorem even_length_filter {α : Type} (p : α → Bool) (l : List α) :
    decide ((l.filter p).length % 2 = 0) = !l.foldr (fun x acc => p x ^^ acc) false := by
  induction l with
  | nil => rfl
  | cons x l ih =>
    cases hx : p x with
    | false => simpa [hx] using ih
    | true =>
      have hflip : decide (((l.filter p).length + 1) % 2 = 0) = !decide ((l.filter p).length % 2 = 0) := by
        rw [← decide_not, decide_eq_decide]
        omega
      simp [hx, hflip, ih]

theorem pfOf_eq_evenOnes {w : Nat} (r : BitVec w) : pfOf r = evenOnes (r.setWidth 8) := by
  rw [pfOf, popcount, even_length_filter, evenOnes, show List.range 8 = [0, 1, 2, 3, 4, 5, 6, 7] from rfl]
  simp only [List.foldr, Bool.xor_assoc, Bool.xor_false]

theorem pfOf_wordOf (l h : Byte) : pfOf (wordOf l h) = pfOf l := by
  have hlow : (wordOf l h).setWidth 8 = l :=
    BitVec.eq_of_toNat_eq (by rw [BitVec.toNat_setWidth, toNat_wordOf]; omega)
  rw [pfOf, pfOf, hlow, BitVec.setWidth_eq]

theorem pfOf_zero (w : Nat) : pfOf (BitVec.ofNat w 0) = true := by
  rw [pfOf_eq_evenOnes, BitVec.setWidth_zero]
  rfl

/-! ### Results (R131, R132) -/

section Sums
variable {w : Nat} (a b : BitVec w)

@[simp] theorem addW_result : (addW a b).result = a + b := by
  simp [addW, BitVec.ofNat_add]

@[simp] theorem subW_result : (subW a b).result = a - b := by
  have ha := a.isLt
  have hb := b.isLt
  apply BitVec.eq_of_toNat_eq
  simp only [subW, BitVec.toNat_ofNat, BitVec.toNat_sub]
  split
  · congr 1; omega
  · rw [show 2 ^ w - b.toNat + a.toNat = a.toNat - b.toNat + 2 ^ w by omega, Nat.add_mod_right]

/-- A difference, with the power of two the borrow adds. -/
theorem toNat_sub_eq : (a - b).toNat = if a.toNat < b.toNat then a.toNat + 2 ^ w - b.toNat else a.toNat - b.toNat := by
  have ha := a.isLt
  have hb := b.isLt
  rw [← subW_result, subW, BitVec.toNat_ofNat]
  exact Nat.mod_eq_of_lt (by split <;> omega)

theorem toNat_sub_eq_emod : ((a - b).toNat : Int) = ((a.toNat : Int) - b.toNat) % 2 ^ w := by
  have hb := b.isLt
  have hcast : ((2 ^ w - b.toNat + a.toNat : Nat) : Int) = (a.toNat : Int) - b.toNat + ((2 ^ w : Nat) : Int) := by omega
  rw [BitVec.toNat_sub, Int.natCast_mod, hcast, Int.add_emod_right, Nat.cast_pow, Nat.cast_ofNat]

/-! ### Overflow: the signs of the operands, or the true signed value (R131, R132) -/

theorem addW_overflow_iff :
    (addW a b).overflow = true ↔ topBit a = topBit b ∧ topBit (addW a b).result ≠ topBit a := by
  simp only [← msb_eq_topBit]
  exact decide_eq_true_iff

theorem subW_overflow_iff :
    (subW a b).overflow = true ↔ topBit a ≠ topBit b ∧ topBit (subW a b).result ≠ topBit a := by
  simp only [← msb_eq_topBit]
  exact decide_eq_true_iff

theorem outsideSigned_eq (v : Int) :
    outsideSigned w v = (decide (v ≥ 2 ^ (w - 1)) || decide (v < -2 ^ (w - 1))) := by
  rw [outsideSigned, Bool.decide_or, Bool.or_comm]

theorem addW_overflow_eq_outsideSigned : (addW a b).overflow = outsideSigned w (a.toInt + b.toInt) := by
  rw [outsideSigned_eq, ← BitVec.saddOverflow, BitVec.saddOverflow_eq, Bool.eq_iff_iff, addW_overflow_iff, addW_result]
  simp [msb_eq_topBit]

theorem subW_overflow_eq_outsideSigned : (subW a b).overflow = outsideSigned w (a.toInt - b.toInt) := by
  rw [outsideSigned_eq, ← BitVec.ssubOverflow, BitVec.ssubOverflow_eq, Bool.eq_iff_iff, subW_overflow_iff, subW_result,
    ← msb_eq_topBit, ← msb_eq_topBit, ← msb_eq_topBit]
  cases a.msb <;> cases b.msb <;> simp

/-! ### The auxiliary carry: the carry into bit 4 (R131, R132) -/

theorem addW_auxCarry_eq_carry : (addW a b).auxCarry = BitVec.carry 4 a b false := by
  simp [addW, BitVec.carry]

variable (hw : 4 < w)
include hw

/-- Bit 4 of a sum is the sum of the operands' bits 4 and the carry from below. -/
theorem addW_auxCarry_eq_bit : (addW a b).auxCarry = (a ^^^ b ^^^ (addW a b).result).getLsbD 4 := by
  rw [addW_result, addW_auxCarry_eq_carry, BitVec.getLsbD_xor, BitVec.getLsbD_xor, BitVec.getLsbD_add hw]
  cases a.getLsbD 4 <;> cases b.getLsbD 4 <;> simp

/-- A difference borrows from bit 4 exactly when adding `b` back carries into it. -/
theorem subW_auxCarry_eq_addW : (subW a b).auxCarry = (addW (a - b) b).auxCarry := by
  have ha := a.isLt
  have hb := b.isLt
  obtain ⟨k, hk⟩ : 16 ∣ 2 ^ w := Nat.pow_dvd_pow 2 hw.le
  have hsub := toNat_sub_eq a b
  simp only [subW, addW, decide_eq_decide]
  split at hsub <;> omega

theorem subW_auxCarry_eq_bit : (subW a b).auxCarry = (a ^^^ b ^^^ (subW a b).result).getLsbD 4 := by
  rw [subW_auxCarry_eq_addW a b hw, addW_auxCarry_eq_bit _ _ hw, addW_result, BitVec.sub_add_cancel, subW_result,
    BitVec.xor_comm _ a, BitVec.xor_comm (a - b) b, BitVec.xor_assoc]

end Sums

end Sys2Proof.Machine

namespace Sys2Proof.Proofs

open Sys2Proof.Machine Sys2Proof.Spec

/-- Settles O37: the result is `a + b`, the two readings of overflow are the library's, the rest is the definition. -/
theorem additionFunctionMatchesItsRule : Obligations.AdditionFunctionMatchesItsRule := by
  unfold Obligations.AdditionFunctionMatchesItsRule
  intro rule
  have every (w : Nat) : rule w := fun a b =>
    ⟨by rw [addW_result, BitVec.toNat_add], decide_eq_true_iff, addW_overflow_iff a b, addW_overflow_eq_outsideSigned a b,
      decide_eq_true_iff⟩
  exact ⟨every 8, every 16⟩

/-- Settles O38: the result is `a - b`; an auxiliary borrow is the auxiliary carry of adding `b` back, and that is bit 4. -/
theorem subtractionFunctionMatchesItsRule : Obligations.SubtractionFunctionMatchesItsRule := by
  unfold Obligations.SubtractionFunctionMatchesItsRule
  intro rule
  have every (w : Nat) (hw : 4 < w) : rule w := fun a b =>
    ⟨by rw [subW_result, toNat_sub_eq_emod], decide_eq_true_iff, subW_overflow_iff a b, subW_overflow_eq_outsideSigned a b,
      decide_eq_true_iff, subW_auxCarry_eq_bit a b hw, addW_auxCarry_eq_bit a b hw⟩
  exact ⟨every 8 (by decide), every 16 (by decide)⟩

/-- Settles O39: the sign is the top bit, and the parity is the exclusive or of the low byte's bits. -/
theorem resultFlagsMatchTheirRule : Obligations.ResultFlagsMatchTheirRule := by
  unfold Obligations.ResultFlagsMatchTheirRule
  intro rule
  have every (w : Nat) : rule w := fun r =>
    ⟨zfOf_iff r, BitVec.msb_eq_getLsbD_last r, sfOf_eq_topBit r, by rw [BitVec.ofNat_toNat, pfOf_eq_evenOnes], pfOf_zero w⟩
  exact ⟨every 8, every 16, pfOf_wordOf⟩

end Sys2Proof.Proofs
end

section
/-! PROOFS. What EXEC admits, and what a STEP does with the instruction it fetched (R123, R124). -/

namespace Sys2Proof

/-! ### Immediate first operands (R123, R128) -/

/-- No instruction but `int` has an immediate first. -/
theorem Instr.mnemonic_of_immediate_first {i : Instr} {v : Operand} {rest : List Operand} (ho : i.operands = v :: rest)
    (hv : v.shape = .imm8 ∨ v.shape = .imm16) : i.mnemonic = .int := by
  have table : ∀ m : Mnemonic, ∀ sig ∈ m.signatures,
      sig.head? = some .imm8 ∨ sig.head? = some .imm16 → m = .int := by intro m; cases m <;> decide
  refine table _ _ i.signature_mem ?_
  simpa [ho] using hv

theorem Instr.ofParts_immediate_first {m : Mnemonic} {v : Operand} {rest : List Operand}
    (hv : v.shape = .imm8 ∨ v.shape = .imm16) (hm : m ≠ .int) : Instr.ofParts m (v :: rest) = none := by
  refine Option.eq_none_iff_forall_ne_some.mpr fun i hi => ?_
  obtain ⟨rfl, ho⟩ := Instr.parts_of_ofParts hi
  exact hm (Instr.mnemonic_of_immediate_first ho hv)

end Sys2Proof

namespace Sys2Proof.Machine

open Sys2Proof.Spec

/-! ### Admission (R123) -/

section Admission
variable {c : Config} {d : Decoded} {m : Mnemonic}

theorem admission_unknown (h : Mnemonic.ofName d.mnemonic = none) :
    admission c d = .error (.unsupportedMnemonic d.mnemonic) := by
  simp [admission, h]

/-- A known mnemonic, in whatever case it is written, is admitted with the operands of an instruction. -/
theorem admission_known (h : Mnemonic.ofName d.mnemonic = some m) {i : Instr} (hi : Instr.ofParts m d.operands = some i)
    (hc : c.tablesWf) : admission c d = .ok i := by
  obtain ⟨rfl, ho⟩ := Instr.parts_of_ofParts hi
  have hparts := Instr.wellFormed_of_tablesWf hc i
  rw [Instr.wellFormed, partsOk, Bool.and_eq_true, ho] at hparts
  obtain ⟨hdest, hshapes⟩ := hparts
  simp [admission, h, hdest, hshapes, hi]

/-- What fails the table's check or has no instruction is refused with one error, whichever check it fails. -/
theorem admission_mismatch (h : Mnemonic.ofName d.mnemonic = some m)
    (hno : shapesOk c m d.operands = false ∨ Instr.ofParts m d.operands = none) :
    admission c d = .error (.operandTypeMismatch d) := by
  simp only [admission, h]
  split
  · rfl
  · obtain hshapes | hparts := hno
    · simp [hshapes]
    · simp [hparts]

end Admission

/-! ### EXEC (R123) -/

theorem perform_exec_ok {s : State} {d : Decoded} {i : Instr} (h : admission s.cfg d = .ok i) :
    perform (.exec d) s = runReply (exec i s) := by
  simp [perform, h]

theorem perform_exec_error {s : State} {d : Decoded} {e : Err} (h : admission s.cfg d = .error e) :
    perform (.exec d) s = .fault e := by
  simp [perform, h]

/-! ### STEP (R124) -/

theorem fetchInstr_of_decode {s : State} {i : Instr} {n : Nat} (hp : PageExists s s.ap)
    (h : decode s.cfg (fetchWindow s s.ap s.ip) = .ok (i, n)) : fetchInstr s = .ok (i, n) := by
  simp [fetchInstr, (validPage_eq _ _).mpr hp, h]

/-- IP after an instruction of `n` bytes, counted from where the instruction began. -/
theorem advanceIp_exec {i : Instr} {s t : State} (h : exec i s = .next t) (n : Nat) :
    advanceIp t n = { t with ip := BitVec.ofNat 16 ((s.ip.toNat + n) % 65536) } := by
  rw [advanceIp, (exec_kept h).1.ip, add_ofNat_eq_ofNat_mod]

end Sys2Proof.Machine

namespace Sys2Proof.Proofs

open Sys2Proof.Machine Sys2Proof.Spec

/-- Settles O7: a known mnemonic with the shapes of one of its signatures makes an instruction, which the table has; other
shapes are no key, and an immediate first operand makes no instruction but `int`. -/
theorem execAdmitsExactlyTheTableKeys : Obligations.ExecAdmitsExactlyTheTableKeys := by
  refine ⟨fun i s hwf => perform_exec_ok (admission_decodedOf hwf i), fun i s t h => (exec_kept h).1.ip,
    fun d s hnone => perform_exec_error (admission_unknown hnone), fun d m s hwf hm => ⟨fun hsig => ?_, fun hsig => ?_⟩,
    fun d m v rest s hm ho hv hint => ?_⟩
  · obtain ⟨i, hi⟩ := Instr.ofParts_isSome hsig
    obtain ⟨hmn, hops⟩ := Instr.parts_of_ofParts hi
    exact ⟨i, hmn, hops, perform_exec_ok (admission_known hm hi hwf)⟩
  · have hkey : shapesOk s.cfg m d.operands = false :=
      Bool.eq_false_iff.mpr fun hok => hsig ((shapesOk_iff hwf.2 m d.operands).mp hok)
    exact perform_exec_error (admission_mismatch hm (.inl hkey))
  · have hparts : Instr.ofParts m d.operands = none := ho ▸ Instr.ofParts_immediate_first hv hint
    exact perform_exec_error (admission_mismatch hm (.inr hparts))

/-- Settles O9: STEP goes by what the fetch answers, and the instruction has left IP alone. -/
theorem stepRunsTheDecodedInstruction : Obligations.StepRunsTheDecodedInstruction := by
  intro s hp
  refine ⟨fun i n hdec _ => ?_, fun reason => step_of_decode_error hp, fun f => stateAfter_step_fault⟩
  have hf := fetchInstr_of_decode hp hdec
  cases he : exec i s with
  | next t => rw [step_next.mpr ⟨i, n, t, hf, he, rfl⟩, advanceIp_exec he]
  | fault f => simp only [step, hf, he]
  | refused r => simp only [step, hf, he]

end Sys2Proof.Proofs
end

section
/-! PROOFS. The rule of a two-operand instruction, proved once for any such instruction: its eight forms with the spec's
tables, what they complete with, where they fault and what EXEC refuses; and `mov` as one (R75, R81, R123, R128, R150). -/

namespace Sys2Proof.Machine

open Sys2Proof.Spec

/-! ### The bytes of an instruction with the spec's tables (R73, R75, R81) -/

/-- The bytes of an operand field where the register-name table is the spec's. -/
def specField : Operand → List Byte
  | .reg8 r => [index8 r]
  | .reg16 r => [index16 r]
  | .imm8 v => [v]
  | .imm16 v | .mem8 v | .mem16 v | .rel8 v | .rel16 v => wordBytes v

theorem encodeOperand_eq_specField {c : Config} (h : c.regTable = specRegTable) (op : Operand) :
    encodeOperand c op = specField op := by
  cases op with
  | reg8 r => rw [encodeOperand, indexOf_reg8 h]; rfl
  | reg16 r => rw [encodeOperand, indexOf_reg16 h]; rfl
  | imm8 | imm16 | mem8 | mem16 | rel8 | rel16 => rfl

/-- The opcodes of a mnemonic count up in the order of its signatures. -/
theorem mem_entriesOf {m : Mnemonic} {base k : Nat} {sig : List Shape} (h : m.signatures[k]? = some sig) :
    ⟨m, sig, BitVec.ofNat 8 (base + k), m.flags⟩ ∈ entriesOf m base :=
  List.mem_map.mpr ⟨(sig, k), List.mk_mem_zipIdx_iff_getElem?.mpr h, rfl⟩

/-- An instruction with the `k`-th signature of its mnemonic, whose opcodes count up from `base`. -/
theorem encode_of_parts {c : Config} (hc : SpecTables c) {m : Mnemonic} {base : Nat} (hm : entriesOf m base ⊆ specOpTable)
    {i : Instr} {ops : List Operand} (hi : i.parts = (m, ops)) (k : Nat)
    (hk : m.signatures[k]? = some (ops.map Operand.shape)) :
    encode c i = BitVec.ofNat 8 (base + k) :: ops.flatMap specField := by
  obtain ⟨hreg, hop⟩ := hc
  obtain ⟨rfl, rfl⟩ : i.mnemonic = m ∧ i.operands = ops := Prod.mk.inj hi
  have hwf : OpTable.wf c.opTable := hop ▸ specOpTable_wf
  have he := hop ▸ hm (mem_entriesOf hk)
  rw [encode_eq_encodeParts hwf he rfl rfl, encodeParts, funext (encodeOperand_eq_specField hreg)]

/-! ### What EXEC refuses (R123) -/

/-- EXEC refuses a mnemonic with any shapes but its signatures. -/
theorem onlyShapes_signatures (m : Mnemonic) : OnlyShapes m m.signatures := by
  intro c ops ⟨_, hop⟩ hno
  have hwf : OpTable.wf c.opTable := hop ▸ specOpTable_wf
  have hkey : shapesOk c m ops = false := Bool.eq_false_iff.mpr fun hok => hno ((shapesOk_iff hwf m ops).mp hok)
  exact admission_mismatch (Mnemonic.ofName_name m) (.inl hkey)

/-! ### What a two-operand operation answers (R48, R128) -/

section Operations
variable {f8 : Byte → Byte → Flags → Byte × Flags} {f16 : Word → Word → Flags → Word × Flags} {s : State}

theorem toNat_add_one_le_of_ne_max {m : Word} (h : m ≠ 0xFFFF) : m.toNat + 1 ≤ 0xFFFF := by bv_omega

theorem readSrc8_mem (h : PageExists s s.ap) (m : Word) :
    readSrc8 s (.loc (.mem m)) = .ok (readPhys s.mem (phys s.ap m)) := memRead8_ok h

theorem readSrc16_mem (h : PageExists s s.ap) {m : Word} (hm : m ≠ 0xFFFF) :
    readSrc16 s (.loc (.mem m)) = .ok (word16 s s.ap m) := memRead16_ok h (toNat_add_one_le_of_ne_max hm)

theorem binary8_reg {src : Src8} {b : Byte} (hb : readSrc8 s src = .ok b) (d : Reg8) :
    binary8 f8 (.reg d) src s = .next (putReg8 s d (f8 (readReg8 s d) b s.flags)) := by
  simp [binary8, finish8, hb, readLoc8, writeLoc8, orRaise, putReg8]

theorem binary16_reg {src : Src16} {b : Word} (hb : readSrc16 s src = .ok b) (d : Reg16) :
    binary16 f16 (.reg d) src s = .next (putReg16 s d (f16 (readReg16 s d) b s.flags)) := by
  simp [binary16, finish16, hb, readLoc16, writeLoc16, orRaise, putReg16]

theorem binary8_mem (h : PageExists s s.ap) {src : Src8} {b : Byte} (hb : readSrc8 s src = .ok b) (m : Word) :
    binary8 f8 (.mem m) src s = .next (putMem8 s s.ap m (f8 (readPhys s.mem (phys s.ap m)) b s.flags)) := by
  simp [binary8, finish8, hb, readLoc8, writeLoc8, memRead8_ok h, memWrite8_ok h, orRaise, putMem8]

theorem binary16_mem (h : PageExists s s.ap) {src : Src16} {b : Word} (hb : readSrc16 s src = .ok b) {m : Word}
    (hm : m ≠ 0xFFFF) :
    binary16 f16 (.mem m) src s = .next (putMem16 s s.ap m (f16 (word16 s s.ap m) b s.flags)) := by
  have ho := toNat_add_one_le_of_ne_max hm
  simp [binary16, finish16, hb, readLoc16, writeLoc16, memRead16_ok h ho, memWrite16_ok h ho, orRaise, putMem16, store16,
    word16, wordBytes, writeBytes]

theorem memRead16_max (s : State) : memRead16 s s.ap 0xFFFF = .error .addressOutOfRange :=
  memRead16_error fun h => absurd h.2 (by decide)

theorem binary16_mem_max (src : Src16) : binary16 f16 (.mem 0xFFFF) src s = .fault .addressOutOfRange := by
  simp only [binary16, readLoc16, memRead16_max, orRaise, raiseError]

theorem binary16_reg_mem_max (d : Reg16) : binary16 f16 (.reg d) (.loc (.mem 0xFFFF)) s = .fault .addressOutOfRange := by
  simp only [binary16, readLoc16, readSrc16, memRead16_max, orRaise, raiseError]

end Operations

/-! ### Any two-operand instruction (R81, R128) -/

/-- The eight forms are the mnemonic `m` with the operands their names say. -/
structure FormsOf (F : TwoForms) (m : Mnemonic) : Prop where
  mem8Reg8 : ∀ a r, (F.mem8Reg8 a r).parts = (m, [.mem8 a, .reg8 r])
  mem16Reg16 : ∀ a r, (F.mem16Reg16 a r).parts = (m, [.mem16 a, .reg16 r])
  reg8Mem8 : ∀ d a, (F.reg8Mem8 d a).parts = (m, [.reg8 d, .mem8 a])
  reg16Mem16 : ∀ d a, (F.reg16Mem16 d a).parts = (m, [.reg16 d, .mem16 a])
  reg8Reg8 : ∀ d r, (F.reg8Reg8 d r).parts = (m, [.reg8 d, .reg8 r])
  reg16Reg16 : ∀ d r, (F.reg16Reg16 d r).parts = (m, [.reg16 d, .reg16 r])
  reg8Imm8 : ∀ d v, (F.reg8Imm8 d v).parts = (m, [.reg8 d, .imm8 v])
  reg16Imm16 : ∀ d v, (F.reg16Imm16 d v).parts = (m, [.reg16 d, .imm16 v])

/-- The executor runs the eight forms as one two-operand operation at the two widths. -/
structure RunsBinary (F : TwoForms) (f8 : Byte → Byte → Flags → Byte × Flags)
    (f16 : Word → Word → Flags → Word × Flags) : Prop where
  mem8Reg8 : ∀ a r s, exec (F.mem8Reg8 a r) s = binary8 f8 (.mem a) (.loc (.reg r)) s
  mem16Reg16 : ∀ a r s, exec (F.mem16Reg16 a r) s = binary16 f16 (.mem a) (.loc (.reg r)) s
  reg8Mem8 : ∀ d a s, exec (F.reg8Mem8 d a) s = binary8 f8 (.reg d) (.loc (.mem a)) s
  reg16Mem16 : ∀ d a s, exec (F.reg16Mem16 d a) s = binary16 f16 (.reg d) (.loc (.mem a)) s
  reg8Reg8 : ∀ d r s, exec (F.reg8Reg8 d r) s = binary8 f8 (.reg d) (.loc (.reg r)) s
  reg16Reg16 : ∀ d r s, exec (F.reg16Reg16 d r) s = binary16 f16 (.reg d) (.loc (.reg r)) s
  reg8Imm8 : ∀ d v s, exec (F.reg8Imm8 d v) s = binary8 f8 (.reg d) (.imm v) s
  reg16Imm16 : ∀ d v s, exec (F.reg16Imm16 d v) s = binary16 f16 (.reg d) (.imm v) s

section TwoOperands
variable {m : Mnemonic} {base : Nat} {F : TwoForms} {f8 : Byte → Byte → Flags → Byte × Flags}
  {f16 : Word → Word → Flags → Word × Flags}

theorem FormsOf.encoding (hF : FormsOf F m) (hsig : m.signatures = eight) (hm : entriesOf m base ⊆ specOpTable) :
    TwoEncoding base F := by
  intro c hc
  have enc (k : Nat) {i : Instr} {a b : Operand} (hi : i.parts = (m, [a, b])) (hk : eight[k]? = some [a.shape, b.shape]) :
      encode c i = BitVec.ofNat 8 (base + k) :: [a, b].flatMap specField :=
    encode_of_parts hc hm hi k (hsig ▸ hk)
  exact ⟨fun a r => enc 0 (hF.mem8Reg8 a r) rfl, fun a r => enc 1 (hF.mem16Reg16 a r) rfl,
    fun d a => enc 2 (hF.reg8Mem8 d a) rfl, fun d a => enc 3 (hF.reg16Mem16 d a) rfl,
    fun d r => enc 4 (hF.reg8Reg8 d r) rfl, fun d r => enc 5 (hF.reg16Reg16 d r) rfl,
    fun d v => enc 6 (hF.reg8Imm8 d v) rfl, fun d v => enc 7 (hF.reg16Imm16 d v) rfl⟩

theorem RunsBinary.memoryForms (hF : RunsBinary F f8 f16) {s : State} (h : PageExists s s.ap) :
    TwoMemoryForms F f8 f16 s s.ap :=
  ⟨fun a r => (hF.mem8Reg8 a r s).trans (binary8_mem h rfl a),
    fun d a => (hF.reg8Mem8 d a s).trans (binary8_reg (readSrc8_mem h a) d),
    fun a r ha => (hF.mem16Reg16 a r s).trans (binary16_mem h rfl ha),
    fun d a ha => (hF.reg16Mem16 d a s).trans (binary16_reg (readSrc16_mem h ha) d)⟩

theorem RunsBinary.completes (hF : RunsBinary F f8 f16) : TwoCompletes F f8 f16 := fun s =>
  ⟨fun d r => (hF.reg8Reg8 d r s).trans (binary8_reg rfl d), fun d r => (hF.reg16Reg16 d r s).trans (binary16_reg rfl d),
    fun d v => (hF.reg8Imm8 d v s).trans (binary8_reg rfl d), fun d v => (hF.reg16Imm16 d v s).trans (binary16_reg rfl d),
    hF.memoryForms⟩

theorem RunsBinary.faults (hF : RunsBinary F f8 f16) : TwoFaults F := fun s =>
  ⟨fun r => (hF.mem16Reg16 _ r s).trans (binary16_mem_max _),
    fun d => (hF.reg16Mem16 d _ s).trans (binary16_reg_mem_max d)⟩

/-- The rule holds of any mnemonic with the eight signatures whose opcodes count up from `base` and whose forms run as one
operation. -/
theorem twoOperandRule_of_runsBinary (hforms : FormsOf F m) (hsig : m.signatures = eight) (hm : entriesOf m base ⊆ specOpTable)
    (hrun : RunsBinary F f8 f16) : TwoOperandRule m base F f8 f16 :=
  ⟨hforms.encoding hsig hm, hrun.completes, hrun.faults, hsig ▸ onlyShapes_signatures m⟩

end TwoOperands

/-! ### A copy as a two-operand operation (R150) -/

/-- The source as result, no flag. -/
def copySource {w : Nat} (_ b : BitVec w) (f : Flags) : BitVec w × Flags := (b, f)

theorem writeReg8_with_flags (s : State) (d : Reg8) (v : Byte) :
    { writeReg8 s d v with flags := s.flags } = writeReg8 s d v := by cases d <;> rfl

theorem writeReg16_with_flags (s : State) (d : Reg16) (v : Word) :
    { writeReg16 s d v with flags := s.flags } = writeReg16 s d v := by cases d <;> rfl

/-- Into a register, where reading the destination first cannot fail. -/
theorem copy8_reg (d : Reg8) (src : Src8) (s : State) :
    copy8 (.reg d) src s = binary8 copySource (.reg d) src s := by
  simp only [copy8, binary8, finish8, readLoc8, writeLoc8, orRaise, copySource, writeReg8_with_flags]

theorem copy16_reg (d : Reg16) (src : Src16) (s : State) :
    copy16 (.reg d) src s = binary16 copySource (.reg d) src s := by
  simp only [copy16, binary16, finish16, readLoc16, writeLoc16, orRaise, copySource, writeReg16_with_flags]

/-- Into memory from a register: the destination can be read exactly where it can be written. -/
theorem copy8_mem (m : Word) (r : Reg8) (s : State) :
    copy8 (.mem m) (.loc (.reg r)) s = binary8 copySource (.mem m) (.loc (.reg r)) s := by
  simp only [copy8, binary8, finish8, readSrc8, readLoc8, writeLoc8, copySource]
  by_cases h : PageExists s s.ap
  · simp only [memRead8_ok h, memWrite8_ok h, orRaise]
  · simp only [memRead8_error h, memWrite8_error h, orRaise]

theorem copy16_mem (m : Word) (r : Reg16) (s : State) :
    copy16 (.mem m) (.loc (.reg r)) s = binary16 copySource (.mem m) (.loc (.reg r)) s := by
  simp only [copy16, binary16, finish16, readSrc16, readLoc16, writeLoc16, copySource]
  by_cases h : PageExists s s.ap ∧ m.toNat + 1 ≤ 0xFFFF
  · simp only [memRead16_ok h.1 h.2, memWrite16_ok h.1 h.2, orRaise]
  · simp only [memRead16_error h, memWrite16_error h, orRaise]

theorem formsOf_movForms : FormsOf movForms .mov :=
  ⟨fun _ _ => rfl, fun _ _ => rfl, fun _ _ => rfl, fun _ _ => rfl, fun _ _ => rfl, fun _ _ => rfl, fun _ _ => rfl,
    fun _ _ => rfl⟩

theorem runsBinary_movForms : RunsBinary movForms copySource copySource where
  mem8Reg8 := copy8_mem
  mem16Reg16 := copy16_mem
  reg8Mem8 d a := copy8_reg d (.loc (.mem a))
  reg16Mem16 d a := copy16_reg d (.loc (.mem a))
  reg8Reg8 d r := copy8_reg d (.loc (.reg r))
  reg16Reg16 d r := copy16_reg d (.loc (.reg r))
  reg8Imm8 d v := copy8_reg d (.imm v)
  reg16Imm16 d v := copy16_reg d (.imm v)

end Sys2Proof.Machine

namespace Sys2Proof.Proofs

open Sys2Proof.Machine Sys2Proof.Spec

/-- Settles O17: `mov` runs as the two-operand operation whose result is the source and whose flags are those before, and
every two-operand instruction keeps the rule. -/
theorem movCopiesItsSource : Obligations.MovCopiesItsSource :=
  twoOperandRule_of_runsBinary formsOf_movForms rfl (by decide) runsBinary_movForms

end Sys2Proof.Proofs
end

section
/-! PROOFS. The rule of a one-operand instruction, proved once for any such instruction, and the arithmetic instructions: the
model's operations are the spec's at both widths, and the rules follow from what runs them (R73, R82, R128, R160 to R164). -/

namespace Sys2Proof.Machine

open Sys2Proof.Spec

/-! ### Any one-operand instruction (R82, R128) -/

/-- The rule holds of any mnemonic with the two signatures whose opcodes count up from `base` and whose forms run as one
operation. -/
theorem oneOperandRule_of_runsUnary {m : Mnemonic} {base : Nat} {F8 : Reg8 → Instr} {F16 : Reg16 → Instr}
    {f8 : Byte → Flags → Byte × Flags} {f16 : Word → Flags → Word × Flags}
    (hparts8 : ∀ d, (F8 d).parts = (m, [.reg8 d])) (hparts16 : ∀ d, (F16 d).parts = (m, [.reg16 d]))
    (hsig : m.signatures = [[.reg8], [.reg16]]) (hm : entriesOf m base ⊆ specOpTable)
    (hrun8 : ∀ d s, exec (F8 d) s = unary8 f8 (.reg d) s) (hrun16 : ∀ d s, exec (F16 d) s = unary16 f16 (.reg d) s) :
    OneOperandRule m (BitVec.ofNat 8 base) (BitVec.ofNat 8 (base + 1)) F8 F16 f8 f16 :=
  ⟨fun _ d hc => encode_of_parts hc hm (hparts8 d) 0 (hsig ▸ rfl),
    fun _ d hc => encode_of_parts hc hm (hparts16 d) 1 (hsig ▸ rfl),
    fun s d => (hrun8 d s).trans (unary8_reg f8 d s), fun s d => (hrun16 d s).trans (unary16_reg f16 d s),
    hsig ▸ onlyShapes_signatures m⟩

/-! ### The operations in the spec's words (R130 to R132, R160 to R164) -/

section Arithmetic
variable {w : Nat}

theorem zfOf_eq_decide (r : BitVec w) : zfOf r = decide (r = BitVec.ofNat w 0) := by
  rw [Bool.eq_iff_iff, zfOf_iff, decide_eq_true_iff, ← BitVec.toNat_inj, BitVec.toNat_ofNat, Nat.zero_mod]

theorem sumFlags_eq_withResult (x : SumOut w) (f : Flags) :
    sumFlags x = withResult { f with cf := x.carry, of := x.overflow, af := x.auxCarry } x.result := by
  rw [sumFlags, withResult, zfOf_eq_decide, sfOf_eq_topBit, pfOf_eq_evenOnes]

theorem aluAdd_eq_addOut (hw : 4 < w) : @aluAdd w = addOut := by
  funext a b f
  rw [aluAdd, addOut, sumFlags_eq_withResult _ f, addW_overflow_eq_outsideSigned, addW_auxCarry_eq_bit a b hw, addW_result]
  rfl

theorem aluSub_eq_subOut (hw : 4 < w) : @aluSub w = subOut := by
  funext a b f
  rw [aluSub, subOut, sumFlags_eq_withResult _ f, subW_overflow_eq_outsideSigned, subW_auxCarry_eq_bit a b hw, subW_result]
  rfl

theorem aluInc_eq_incOut (hw : 4 < w) : @aluInc w = incOut := by
  funext a f
  rw [incOut, ← aluAdd_eq_addOut hw]
  rfl

theorem aluDec_eq_decOut (hw : 4 < w) : @aluDec w = decOut := by
  funext a f
  rw [decOut, ← aluSub_eq_subOut hw]
  rfl

/-! Zero minus an operand: the three flags R162 states for `neg`. -/

theorem subW_zero_carry (a : BitVec w) : (subW (BitVec.ofNat w 0) a).carry = decide (a ≠ BitVec.ofNat w 0) := by
  simp only [subW, ne_eq, ← BitVec.toNat_inj, BitVec.toNat_ofNat, Nat.zero_mod, Nat.pos_iff_ne_zero]

theorem subW_zero_auxCarry (a : BitVec w) : (subW (BitVec.ofNat w 0) a).auxCarry = decide (a.toNat % 16 ≠ 0) := by
  simp only [subW, BitVec.toNat_ofNat, Nat.zero_mod, Nat.pos_iff_ne_zero, ne_eq]

/-- Only the most negative value has a negative that is no signed value of the width. -/
theorem subW_zero_overflow (hw : 0 < w) (a : BitVec w) :
    (subW (BitVec.ofNat w 0) a).overflow = decide (a.toNat = 2 ^ (w - 1)) := by
  have hneg : (BitVec.ofNat w 0).toInt - a.toInt = -a.toInt := by rw [BitVec.toInt_zero, Int.zero_sub]
  rw [subW_overflow_eq_outsideSigned, hneg, outsideSigned, decide_eq_decide]
  have hlow := BitVec.le_toInt a
  have hhigh := BitVec.toInt_lt (x := a)
  have hlt := a.isLt
  have hpow := Nat.two_pow_pred_add_two_pow_pred hw
  have hcast : (2 : Int) ^ (w - 1) = ((2 ^ (w - 1) : Nat) : Int) := (Nat.cast_pow 2 _).symm
  have hsigned := BitVec.toInt_eq_toNat_cond a
  split at hsigned <;> omega

theorem aluNeg_eq_negOut (hw : 0 < w) : @aluNeg w = negOut := by
  funext a f
  rw [aluNeg, aluSub, negOut, sumFlags_eq_withResult _ f, subW_zero_carry, subW_zero_auxCarry, subW_zero_overflow hw,
    subW_result, BitVec.zero_sub]

end Arithmetic

/-! ### The forms of `add` and `sub` (R160, R161) -/

theorem formsOf_addForms : FormsOf addForms .add := by constructor <;> intros <;> rfl

theorem formsOf_subForms : FormsOf subForms .sub := by constructor <;> intros <;> rfl

theorem runsBinary_addForms : RunsBinary addForms aluAdd aluAdd := by constructor <;> intros <;> rfl

theorem runsBinary_subForms : RunsBinary subForms aluSub aluSub := by constructor <;> intros <;> rfl

end Sys2Proof.Machine

namespace Sys2Proof.Proofs

open Sys2Proof.Machine Sys2Proof.Spec

/-- Settles O18: the forms run `aluAdd`, which is the spec's sum with its six flags at both widths. -/
theorem addWritesSumAndSixFlags : Obligations.AddWritesSumAndSixFlags := by
  have h := twoOperandRule_of_runsBinary (base := 0x20) formsOf_addForms rfl (by decide) runsBinary_addForms
  rwa [aluAdd_eq_addOut (by decide), aluAdd_eq_addOut (by decide)] at h

/-- Settles O19: the forms run `aluSub`, which is the spec's difference with its six flags at both widths. -/
theorem subWritesDifferenceAndSixFlags : Obligations.SubWritesDifferenceAndSixFlags := by
  have h := twoOperandRule_of_runsBinary (base := 0x30) formsOf_subForms rfl (by decide) runsBinary_subForms
  rwa [aluSub_eq_subOut (by decide), aluSub_eq_subOut (by decide)] at h

/-- Settles O24: the forms run `aluNeg`, zero minus the operand, whose carry, auxiliary carry and overflow are R162's. -/
theorem negIsZeroMinusOperand : Obligations.NegIsZeroMinusOperand := by
  unfold Obligations.NegIsZeroMinusOperand
  rw [← aluNeg_eq_negOut (by decide), ← aluNeg_eq_negOut (by decide)]
  exact oneOperandRule_of_runsUnary (base := 0x72) (fun _ => rfl) (fun _ => rfl) rfl (by decide) (fun _ _ => rfl)
    (fun _ _ => rfl)

/-- Settles O25: the forms run `aluInc`, the spec's sum with one and the carry kept. -/
theorem incAddsOneAndKeepsCarry : Obligations.IncAddsOneAndKeepsCarry := by
  unfold Obligations.IncAddsOneAndKeepsCarry
  rw [← aluInc_eq_incOut (by decide), ← aluInc_eq_incOut (by decide)]
  exact oneOperandRule_of_runsUnary (base := 0x74) (fun _ => rfl) (fun _ => rfl) rfl (by decide) (fun _ _ => rfl)
    (fun _ _ => rfl)

/-- Settles O26: the forms run `aluDec`, the spec's difference with one and the carry kept. -/
theorem decSubtractsOneAndKeepsCarry : Obligations.DecSubtractsOneAndKeepsCarry := by
  unfold Obligations.DecSubtractsOneAndKeepsCarry
  rw [← aluDec_eq_decOut (by decide), ← aluDec_eq_decOut (by decide)]
  exact oneOperandRule_of_runsUnary (base := 0x76) (fun _ => rfl) (fun _ => rfl) rfl (by decide) (fun _ _ => rfl)
    (fun _ _ => rfl)

end Sys2Proof.Proofs
end

section
/-! PROOFS. The logical instructions: the model's operations on whole words are the spec's bit by bit, and the rules follow from
what runs them (R133, R170 to R173). -/

namespace Sys2Proof.Machine

open Sys2Proof.Spec

/-! ### The operations in the spec's words (R133, R170 to R173) -/

section Logic
variable {w : Nat}

/-- A word built bit by bit is the word with those bits. -/
theorem ofFnLE_eq_of_getLsbD {r : BitVec w} {f : Fin w → Bool} (h : ∀ i : Fin w, r.getLsbD i = f i) :
    BitVec.ofFnLE f = r := by
  ext i hi
  rw [BitVec.getElem_ofFnLE, ← h, BitVec.getLsbD_eq_getElem hi]

theorem logicOut_eq_logicFlags (r : BitVec w) (f : Flags) : logicOut r f = (r, logicFlags r f) := by
  rw [logicOut, withResult, logicFlags, zfOf_eq_decide, sfOf_eq_topBit, pfOf_eq_evenOnes]

theorem andOut_eq_aluAnd : @andOut w = aluAnd := by
  funext a b f
  have hbits : (BitVec.ofFnLE fun i : Fin w => a.getLsbD i && b.getLsbD i) = a &&& b :=
    ofFnLE_eq_of_getLsbD fun i => BitVec.getLsbD_and
  rw [andOut, hbits, logicOut_eq_logicFlags, aluAnd]

theorem orOut_eq_aluOr : @orOut w = aluOr := by
  funext a b f
  have hbits : (BitVec.ofFnLE fun i : Fin w => a.getLsbD i || b.getLsbD i) = a ||| b :=
    ofFnLE_eq_of_getLsbD fun i => BitVec.getLsbD_or
  rw [orOut, hbits, logicOut_eq_logicFlags, aluOr]

theorem xorOut_eq_aluXor : @xorOut w = aluXor := by
  funext a b f
  have hbits : (BitVec.ofFnLE fun i : Fin w => a.getLsbD i ^^ b.getLsbD i) = a ^^^ b :=
    ofFnLE_eq_of_getLsbD fun i => BitVec.getLsbD_xor
  rw [xorOut, hbits, logicOut_eq_logicFlags, aluXor]

/-- R173's inverse is the complement to `2 ^ w - 1` that the model subtracts. -/
theorem notOut_eq_aluNot : @notOut w = aluNot := by
  funext a f
  have hbits : (BitVec.ofFnLE fun i : Fin w => !a.getLsbD i) = ~~~a := ofFnLE_eq_of_getLsbD fun i => by simp
  rw [notOut, hbits, aluNot, ← BitVec.toNat_not, BitVec.ofNat_toNat, BitVec.setWidth_eq]

end Logic

/-! ### The forms of `and`, `or` and `xor` (R170 to R172) -/

theorem formsOf_andForms : FormsOf andForms .and := by constructor <;> intros <;> rfl

theorem formsOf_orForms : FormsOf orForms .or := by constructor <;> intros <;> rfl

theorem formsOf_xorForms : FormsOf xorForms .xor := by constructor <;> intros <;> rfl

theorem runsBinary_andForms : RunsBinary andForms aluAnd aluAnd := by constructor <;> intros <;> rfl

theorem runsBinary_orForms : RunsBinary orForms aluOr aluOr := by constructor <;> intros <;> rfl

theorem runsBinary_xorForms : RunsBinary xorForms aluXor aluXor := by constructor <;> intros <;> rfl

end Sys2Proof.Machine

namespace Sys2Proof.Proofs

open Sys2Proof.Machine Sys2Proof.Spec

/-- Settles O20: the forms run `aluAnd`, which is the spec's bitwise and with CF and OF cleared and AF kept. -/
theorem andWritesBitsAndClearsCarry : Obligations.AndWritesBitsAndClearsCarry := by
  unfold Obligations.AndWritesBitsAndClearsCarry
  rw [andOut_eq_aluAnd, andOut_eq_aluAnd]
  exact twoOperandRule_of_runsBinary formsOf_andForms rfl (by decide) runsBinary_andForms

/-- Settles O21: the forms run `aluOr`, which is the spec's bitwise or with CF and OF cleared and AF kept. -/
theorem orWritesBitsAndClearsCarry : Obligations.OrWritesBitsAndClearsCarry := by
  unfold Obligations.OrWritesBitsAndClearsCarry
  rw [orOut_eq_aluOr, orOut_eq_aluOr]
  exact twoOperandRule_of_runsBinary formsOf_orForms rfl (by decide) runsBinary_orForms

/-- Settles O22: the forms run `aluXor`, which is the spec's bitwise exclusive or with CF and OF cleared and AF kept. -/
theorem xorWritesBitsAndClearsCarry : Obligations.XorWritesBitsAndClearsCarry := by
  unfold Obligations.XorWritesBitsAndClearsCarry
  rw [xorOut_eq_aluXor, xorOut_eq_aluXor]
  exact twoOperandRule_of_runsBinary formsOf_xorForms rfl (by decide) runsBinary_xorForms

/-- Settles O23: the forms run `aluNot`, which inverts every bit and hands the flags on. -/
theorem notInvertsAndKeepsFlags : Obligations.NotInvertsAndKeepsFlags := by
  unfold Obligations.NotInvertsAndKeepsFlags
  rw [notOut_eq_aluNot, notOut_eq_aluNot]
  exact oneOperandRule_of_runsUnary (base := 0x70) (fun _ => rfl) (fun _ => rfl) rfl (by decide) (fun _ _ => rfl)
    (fun _ _ => rfl)

end Sys2Proof.Proofs
end

section
/-! PROOFS. The shifts and rotates by one bit: the model's products, quotients and carried bits are the spec's shifts and rotates
of the word, and the rules follow from what runs them (R134, R180 to R183). -/

namespace Sys2Proof.Machine

open Sys2Proof.Spec

/-! ### The operations in the spec's words (R134, R180 to R183) -/

section Shifts
variable {w : Nat}

/-- OF as a comparison of sign bits is OF as their exclusive or (R134). -/
theorem shifted_eq_shiftFlags (a r : BitVec w) (c : Bool) (f : Flags) : shifted a r c f = (r, shiftFlags a r c f) := by
  have hof : decide (a.msb ≠ r.msb) = (topBit a ^^ topBit r) := by
    rw [Bool.eq_iff_iff, decide_eq_true_iff, Bool.xor_iff_ne, msb_eq_topBit, msb_eq_topBit]
  rw [shifted, withResult, shiftFlags, hof, zfOf_eq_decide, sfOf_eq_topBit, pfOf_eq_evenOnes]

theorem getLsbD_zero_eq_decide (a : BitVec w) : a.getLsbD 0 = decide (a.toNat % 2 = 1) := Nat.testBit_zero _

theorem shiftLeft_one_eq_ofNat (a : BitVec w) : a <<< 1 = BitVec.ofNat w (2 * a.toNat) :=
  BitVec.eq_of_toNat_eq (by rw [BitVec.toNat_shiftLeft, BitVec.toNat_ofNat, Nat.shiftLeft_eq, Nat.pow_one, Nat.mul_comm])

theorem ushiftRight_one_eq_ofNat (a : BitVec w) : a >>> 1 = BitVec.ofNat w (a.toNat / 2) := by
  rw [← Nat.pow_one 2, ← Nat.shiftRight_eq_div_pow, ← BitVec.toNat_ushiftRight, BitVec.ofNat_toNat, BitVec.setWidth_eq]

/-- The bit that leaves at the top enters at bit 0, which the doubled word leaves free. -/
theorem toNat_rotateLeft_one (hw : 1 < w) (a : BitVec w) :
    (a.rotateLeft 1).toNat = 2 * a.toNat % 2 ^ w + a.msb.toNat := by
  have hpow : 2 ^ w = 2 ^ 1 * 2 ^ (w - 1) := by rw [← Nat.pow_add]; congr 1; omega
  have htop : a.toNat / 2 ^ (w - 1) = a.msb.toNat := by
    have hlt : a.toNat / 2 ^ (w - 1) < 2 := Nat.div_lt_of_lt_mul (by have := a.isLt; omega)
    rw [BitVec.msb_eq_getLsbD_last, ← BitVec.testBit_toNat, Nat.toNat_testBit, Nat.mod_eq_of_lt hlt]
  calc (a.rotateLeft 1).toNat
      = 2 ^ 1 * (a.toNat % 2 ^ (w - 1)) ||| a.msb.toNat := by
        rw [BitVec.toNat_rotateLeft, Nat.mod_eq_of_lt hw, Nat.shiftRight_eq_div_pow, htop, Nat.shiftLeft_eq, Nat.mul_comm,
          hpow, Nat.mul_mod_mul_left]
    _ = 2 ^ 1 * (a.toNat % 2 ^ (w - 1)) + a.msb.toNat := (Nat.two_pow_add_eq_or_of_lt a.msb.toNat_lt _).symm
    _ = 2 * a.toNat % 2 ^ w + a.msb.toNat := by rw [← Nat.mul_mod_mul_left, ← hpow, Nat.pow_one]

/-- The bit that leaves at bit 0 enters at the top, which the halved word leaves free. -/
theorem toNat_rotateRight_one (hw : 1 < w) (a : BitVec w) :
    (a.rotateRight 1).toNat = a.toNat / 2 + (a.getLsbD 0).toNat * 2 ^ (w - 1) := by
  have hpow : 2 ^ w = 2 ^ (w - 1) * 2 := by rw [← Nat.pow_succ]; congr 1; omega
  have hlow : a.toNat % 2 = (a.getLsbD 0).toNat := by
    rw [← BitVec.testBit_toNat, Nat.toNat_testBit, Nat.pow_zero, Nat.div_one]
  have hhalf : a.toNat / 2 < 2 ^ (w - 1) := by have := a.isLt; omega
  calc (a.rotateRight 1).toNat
      = a.toNat / 2 ||| 2 ^ (w - 1) * (a.getLsbD 0).toNat := by
        rw [BitVec.toNat_rotateRight, Nat.mod_eq_of_lt hw, Nat.shiftRight_eq_div_pow, Nat.pow_one, Nat.shiftLeft_eq,
          Nat.mul_comm, hpow, Nat.mul_mod_mul_left, hlow]
    _ = 2 ^ (w - 1) * (a.getLsbD 0).toNat + a.toNat / 2 := by rw [Nat.or_comm, Nat.two_pow_add_eq_or_of_lt hhalf]
    _ = a.toNat / 2 + (a.getLsbD 0).toNat * 2 ^ (w - 1) := by rw [Nat.add_comm, Nat.mul_comm]

theorem shlOut_eq_aluShl : @shlOut w = aluShl := by
  funext a f
  rw [shlOut, shifted_eq_shiftFlags, shiftLeft_one_eq_ofNat, ← msb_eq_topBit, aluShl]

theorem shrOut_eq_aluShr : @shrOut w = aluShr := by
  funext a f
  rw [shrOut, shifted_eq_shiftFlags, ushiftRight_one_eq_ofNat, ← getLsbD_zero_eq_decide, aluShr]

theorem rolOut_eq_aluRol (hw : 1 < w) : @rolOut w = aluRol := by
  funext a f
  rw [rolOut, shifted_eq_shiftFlags, ← msb_eq_topBit, aluRol, ← toNat_rotateLeft_one hw, BitVec.ofNat_toNat,
    BitVec.setWidth_eq]

theorem rorOut_eq_aluRor (hw : 1 < w) : @rorOut w = aluRor := by
  funext a f
  rw [rorOut, shifted_eq_shiftFlags, ← getLsbD_zero_eq_decide, aluRor, ← toNat_rotateRight_one hw, BitVec.ofNat_toNat,
    BitVec.setWidth_eq]

end Shifts

end Sys2Proof.Machine

namespace Sys2Proof.Proofs

open Sys2Proof.Machine Sys2Proof.Spec

/-- Settles O27: the forms run `aluShl`, the doubled operand, whose old top bit is the carry. -/
theorem shlMovesTopBitToCarry : Obligations.ShlMovesTopBitToCarry := by
  unfold Obligations.ShlMovesTopBitToCarry
  rw [shlOut_eq_aluShl, shlOut_eq_aluShl]
  exact oneOperandRule_of_runsUnary (base := 0x78) (fun _ => rfl) (fun _ => rfl) rfl (by decide) (fun _ _ => rfl)
    (fun _ _ => rfl)

/-- Settles O28: the forms run `aluShr`, the halved operand, whose remainder is the carry. -/
theorem shrMovesLowBitToCarry : Obligations.ShrMovesLowBitToCarry := by
  unfold Obligations.ShrMovesLowBitToCarry
  rw [shrOut_eq_aluShr, shrOut_eq_aluShr]
  exact oneOperandRule_of_runsUnary (base := 0x7A) (fun _ => rfl) (fun _ => rfl) rfl (by decide) (fun _ _ => rfl)
    (fun _ _ => rfl)

/-- Settles O29: the forms run `aluRol`, which returns the old top bit at bit 0 and copies it to the carry. -/
theorem rolRotatesOperandBitsOnly : Obligations.RolRotatesOperandBitsOnly := by
  unfold Obligations.RolRotatesOperandBitsOnly
  rw [rolOut_eq_aluRol (by decide), rolOut_eq_aluRol (by decide)]
  exact oneOperandRule_of_runsUnary (base := 0x7C) (fun _ => rfl) (fun _ => rfl) rfl (by decide) (fun _ _ => rfl)
    (fun _ _ => rfl)

/-- Settles O30: the forms run `aluRor`, which returns the old bit 0 at the top and copies it to the carry. -/
theorem rorRotatesOperandBitsOnly : Obligations.RorRotatesOperandBitsOnly := by
  unfold Obligations.RorRotatesOperandBitsOnly
  rw [rorOut_eq_aluRor (by decide), rorOut_eq_aluRor (by decide)]
  exact oneOperandRule_of_runsUnary (base := 0x7E) (fun _ => rfl) (fun _ => rfl) rfl (by decide) (fun _ _ => rfl)
    (fun _ _ => rfl)

end Sys2Proof.Proofs
end

section
/-! PROOFS. The stack instructions: what `push` and `pop` answer where they complete, in the spec's words, where they fault, and
the registers `pop` leaves (R190, R191). -/

namespace Sys2Proof.Machine

open Sys2Proof.Spec

/-! ### push (R190) -/

theorem encode_pushReg16 {c : Config} {r : Reg16} (hc : SpecTables c) : encode c (.pushReg16 r) = [0x80, index16 r] :=
  encode_of_parts (m := .push) (base := 0x80) (ops := [.reg16 r]) hc (by decide) rfl 0 rfl

section Push
variable {s : State}

theorem pushWord_completes (hp : PageExists s s.ap) (hsp : 2 ≤ (readReg16 s .sp).toNat) (v : Word) :
    pushWord v s =
      .next { s with mem := store16 s s.ap (readReg16 s .sp - 2) v, regs := { s.regs with sp := s.regs.sp - 2 } } :=
  pushWord_next.mpr ⟨hsp, hp, rfl⟩

/-- The check of SP comes before that of the page. -/
theorem pushWord_faults (hsp : (readReg16 s .sp).toNat < 2) (v : Word) : pushWord v s = .fault .addressOutOfRange := by
  rw [pushWord, if_pos hsp, raiseError]

end Push

/-! ### pop (R191) -/

theorem encode_popReg16 {c : Config} {d : Reg16} (hc : SpecTables c) : encode c (.popReg16 d) = [0x81, index16 d] :=
  encode_of_parts (m := .pop) (base := 0x81) (ops := [.reg16 d]) hc (by decide) rfl 0 rfl

/-- The state after a `pop` of `v` into `d`: SP goes first, so the destination wins where it is SP. -/
def popped (s : State) (d : Reg16) (v : Word) : State := writeReg16 (writeReg16 s .sp (readReg16 s .sp + 2)) d v

section Popped
variable (s : State) {d : Reg16} (v : Word)

theorem readReg16_popped_dest : readReg16 (popped s d v) d = v := readReg16_writeReg16_same _ d v

theorem readReg16_popped_sp (hd : d ≠ .sp) : readReg16 (popped s d v) .sp = readReg16 s .sp + 2 := by
  rw [popped, readReg16_writeReg16_other _ v hd.symm, readReg16_writeReg16_same]

theorem readReg16_popped_other {q : Reg16} (hd : q ≠ d) (hsp : q ≠ .sp) :
    readReg16 (popped s d v) q = readReg16 s q := by
  rw [popped, readReg16_writeReg16_other _ v hd, readReg16_writeReg16_other _ _ hsp]

theorem popped_eq_with_regs : popped s d v = { s with regs := (popped s d v).regs } := by cases d <;> rfl

end Popped

section Pop
variable {s : State}

theorem execPopReg16_completes (hp : PageExists s s.ap) (hsp : readReg16 s .sp ≠ 0xFFFF) (d : Reg16) :
    execPopReg16 d s = .next (popped s d (word16 s s.ap (readReg16 s .sp))) :=
  execPopReg16_next.mpr ⟨hp, toNat_add_one_le_of_ne_max hsp, rfl⟩

/-- The read of two bytes at the last offset is refused, so SP is not raised. -/
theorem execPopReg16_faults (hsp : readReg16 s .sp = 0xFFFF) (d : Reg16) :
    execPopReg16 d s = .fault .addressOutOfRange := by
  simp only [execPopReg16, hsp, memRead16_max, orRaise, raiseError]

end Pop

end Sys2Proof.Machine

namespace Sys2Proof.Proofs

open Sys2Proof.Machine Sys2Proof.Spec

/-- Settles O31: `push` hands `pushWord` the operand read before SP changes, and the table has it with one register alone. -/
theorem pushStoresBelowStackPointer : Obligations.PushStoresBelowStackPointer :=
  ⟨fun _ _ => encode_pushReg16,
    fun s r hp hsp => pushWord_completes hp hsp (readReg16 s r), fun s r hsp => pushWord_faults hsp (readReg16 s r),
    onlyShapes_signatures .push⟩

/-- Settles O32: `pop` raises SP and then writes the destination, with the value read at the old SP. -/
theorem popLoadsAtStackPointer : Obligations.PopLoadsAtStackPointer := by
  refine ⟨fun _ _ => encode_popReg16, fun s d hp hsp => ?_,
    fun s d hsp => execPopReg16_faults hsp d, onlyShapes_signatures .pop⟩
  have hraised (hd : d ≠ .sp) :
      (readReg16 (popped s d (word16 s s.ap (readReg16 s .sp))) .sp).toNat = ((readReg16 s .sp).toNat + 2) % 65536 := by
    rw [readReg16_popped_sp s _ hd, BitVec.toNat_add]
    rfl
  exact ⟨_, execPopReg16_completes hp hsp d, readReg16_popped_dest s _, hraised,
    fun q hd hq => readReg16_popped_other s _ hd hq, popped_eq_with_regs s _⟩

end Sys2Proof.Proofs
end

section
/-! PROOFS. The services of `int`: which one the operand selects under the spec's numbers, what each answers where it completes
and where it faults, and the step that ends a run (R125, R195 to R199). -/

namespace Sys2Proof.Machine

open Sys2Proof.Spec

/-! ### Selection (R195, R196) -/

theorem encode_intImm8 {c : Config} {n : Byte} (hc : SpecTables c) : encode c (.intImm8 n) = [0x90, n] :=
  encode_of_parts (m := .int) (base := 0x90) (ops := [.imm8 n]) hc (by decide) rfl 0 rfl

section SpecServices
variable {s : State} (hs : SpecServices s)
include hs

/-- The selection of R195 in the spec's numbers. -/
theorem exec_intImm8 (n : Byte) :
    exec (.intImm8 n) s =
      if n = 0x09 then printService s else if n = 0x0A then readLineService s
      else if n = 0x20 then terminateService s else .fault (.unsupportedService n) := by
  change execIntImm8 n s = _
  rw [execIntImm8, hs]
  rfl

theorem exec_int_print : exec (.intImm8 0x09) s = printService s := by simp [exec_intImm8 hs]

theorem exec_int_readLine : exec (.intImm8 0x0A) s = readLineService s := by simp [exec_intImm8 hs]

theorem exec_int_terminate : exec (.intImm8 0x20) s = terminateService s := by simp [exec_intImm8 hs]

theorem exec_int_unsupported {n : Byte} (hprint : n ≠ 0x09) (hread : n ≠ 0x0A) (hterm : n ≠ 0x20) :
    exec (.intImm8 n) s = .fault (.unsupportedService n) := by
  rw [exec_intImm8 hs, if_neg hprint, if_neg hread, if_neg hterm]

theorem servicePage_eq_bx : servicePage s = readReg16 s .bx := by rw [servicePage, hs]; rfl

theorem serviceOffset_eq_dx : serviceOffset s = readReg16 s .dx := by rw [serviceOffset, hs]; rfl

theorem terminator_eq : s.cfg.services.terminator = 0x24 := by rw [hs]; rfl

end SpecServices

theorem exec_intImm8_next {n : Byte} {s t : State} (h : exec (.intImm8 n) s = .next t) : ServiceDone n s t := by
  obtain ⟨-, -, hne, -⟩ | ⟨r, hi, -⟩ | ⟨d, hi, -⟩ | ⟨k, hi, hdone⟩ := exec_next h
  · exact absurd rfl hne
  · cases hi
  · cases hi
  · cases hi; exact hdone

/-- Of the services only read-line stores. -/
theorem ServiceDone.mem_eq {n : Byte} {s t : State} (h : ServiceDone n s t) (hn : n ≠ s.cfg.services.readLineNo) :
    t.mem = s.mem := by
  obtain ⟨-, b, rfl⟩ | ⟨-, hread, -⟩ | ⟨-, -, -, rfl⟩ := h
  · rfl
  · exact absurd hread hn
  · rfl

/-! ### print (R197) -/

section Print
variable {s : State}

/-- The string is what stands before the first terminator. -/
theorem printService_completes {k : Nat} (hp : PageExists s (servicePage s)) (hk : (serviceOffset s).toNat + k ≤ 0xFFFF)
    (hend : readPhys s.mem (phys (servicePage s) (serviceOffset s) + k) = s.cfg.services.terminator)
    (hfirst : ∀ j, j < k →
      readPhys s.mem (phys (servicePage s) (serviceOffset s) + j) ≠ s.cfg.services.terminator) :
    printService s = .next (emit s (.output (readBytes s.mem (phys (servicePage s) (serviceOffset s)) k))) := by
  refine printService_next.mpr ⟨hp, _, scanString_eq_some.mpr ?_, rfl⟩
  rw [length_readBytes]
  exact ⟨by rw [pageSize]; omega, hend, hfirst, rfl⟩

theorem printService_faults_of_no_page (hp : ¬ PageExists s (servicePage s)) :
    printService s = .fault .addressOutOfRange := by
  rw [printService, if_neg (by rwa [validPage_eq]), raiseError]

theorem printService_faults_of_no_terminator
    (hnone : ∀ k, (serviceOffset s).toNat + k ≤ 0xFFFF →
      readPhys s.mem (phys (servicePage s) (serviceOffset s) + k) ≠ s.cfg.services.terminator) :
    printService s = .fault .addressOutOfRange := by
  have hscan : scanString s.mem s.cfg.services.terminator (phys (servicePage s) (serviceOffset s))
      (pageSize - (serviceOffset s).toNat) = none :=
    scanString_eq_none.mpr fun k hk => hnone k (by rw [pageSize] at hk; omega)
  rw [printService, hscan]
  exact ite_self _

end Print

/-! ### read line (R198) -/

theorem drawLine_of_cons {s : State} {l : List Byte} {rest : List (List Byte)} (h : s.hostLines = l :: rest) :
    drawLine s = (l, { s with hostLines := rest }) := by rw [drawLine, h]

theorem drawLine_of_nil {s : State} (h : s.hostLines = []) :
    drawLine s = (Config.freeLine s.draws, { s with draws := s.draws + 1 }) := by rw [drawLine, h]

section ReadLine
variable {s : State}

theorem readLineService_completes (hp : PageExists s (servicePage s))
    (hfit : (serviceOffset s).toNat + (drawLine s).1.length ≤ 0xFFFF) :
    readLineService s = .next (emit (storeLine (drawLine s).2 (drawLine s).1) (.inputTaken (drawLine s).1)) :=
  readLineService_next.mpr ⟨hp, hfit, rfl⟩

theorem readLineService_faults_of_no_page (hp : ¬ PageExists s (servicePage s)) :
    readLineService s = .fault .addressOutOfRange := by
  rw [readLineService, if_neg (by rwa [validPage_eq]), raiseError]

theorem readLineService_faults_of_long_line (hlong : 0xFFFF < (serviceOffset s).toNat + (drawLine s).1.length) :
    readLineService s = .fault .addressOutOfRange := by
  rw [readLineService, if_neg (Nat.not_le_of_lt hlong)]
  exact ite_self _

end ReadLine

/-- What a buffer holds once a line and its terminator are stored there: both, and all other bytes as before. -/
theorem readPhys_writeBytes_line (m : Memory) (a : Nat) (l : List Byte) (term : Byte) :
    (∀ i, i < l.length → l[i]? = some (readPhys (writeBytes m a (l ++ [term])) (a + i))) ∧
      readPhys (writeBytes m a (l ++ [term])) (a + l.length) = term ∧
      (∀ x, x < a ∨ a + l.length < x → readPhys (writeBytes m a (l ++ [term])) x = readPhys m x) := by
  have hlen : (l ++ [term]).length = l.length + 1 := List.length_append
  refine ⟨fun i hi => ?_, ?_, fun x hx => readPhys_writeBytes_other m _ (by omega)⟩
  · rw [← getElem?_writeBytes m a (l ++ [term]) (by omega), List.getElem?_append_left hi]
  · have hlast := getElem?_writeBytes m a (l ++ [term]) (i := l.length) (by omega)
    rw [List.getElem?_concat_length] at hlast
    exact (Option.some.inj hlast).symm

/-! ### The end of a run (R125, R199) -/

/-- The step that hands over a TerminateRequest is the run's last, whatever fuel is left. -/
theorem runSteps_of_terminateRequest {s t : State} (h : step s = .next t) (he : .terminateRequest ∈ newEvents s t)
    (fuel : Nat) : runSteps (fuel + 1) s = .terminated t := by
  simp only [runSteps, h, List.contains_iff_mem.mpr he, if_true]

theorem newEvents_append {s t : State} {es : List Event} (h : t.events = s.events ++ es) : newEvents s t = es := by
  rw [newEvents, h, List.drop_left]

end Sys2Proof.Machine

namespace Sys2Proof.Proofs

open Sys2Proof.Machine Sys2Proof.Spec

/-- Settles O33: the selection in the spec's numbers, and the frame of whatever service completed. -/
theorem intSelectsServiceByOperand : Obligations.IntSelectsServiceByOperand := by
  refine ⟨fun _ _ => encode_intImm8, fun s hs => ⟨exec_int_print hs, exec_int_readLine hs, exec_int_terminate hs,
    fun n => exec_int_unsupported hs, fun n t h => ?_⟩, onlyShapes_signatures .int⟩
  have hdone := exec_intImm8_next h
  obtain ⟨hregs, hflags⟩ := hdone.regs_flags
  exact ⟨hregs, hflags, fun hn => hdone.mem_eq (by rw [hs]; exact hn)⟩

/-- Settles O34: the laws of the print service, with its page, offset and terminator in the spec's values. -/
theorem printEmitsStringUpToTerminator : Obligations.PrintEmitsStringUpToTerminator := by
  intro s hs
  have hstring : stringByte s = fun k => readPhys s.mem (phys (servicePage s) (serviceOffset s) + k) := by
    rw [servicePage_eq_bx hs, serviceOffset_eq_dx hs]
  rw [exec_int_print hs, hstring, ← servicePage_eq_bx hs, ← serviceOffset_eq_dx hs, ← terminator_eq hs]
  exact ⟨fun k => printService_completes, printService_faults_of_no_page, printService_faults_of_no_terminator⟩

/-- Settles O35: the laws of the draw and of the read-line service, and what a stored line leaves to be read. -/
theorem readLineStoresLineAndTerminator : Obligations.ReadLineStoresLineAndTerminator := by
  intro s hs
  rw [exec_int_readLine hs, ← servicePage_eq_bx hs, ← serviceOffset_eq_dx hs]
  refine ⟨fun hp => ⟨(drawLine s).1, (drawLine s).2, rfl, fun l rest h => ?_, fun h => by rw [drawLine_of_nil h],
    fun hfit => ⟨_, readLineService_completes hp hfit, ?_, ?_⟩, readLineService_faults_of_long_line⟩,
    readLineService_faults_of_no_page⟩
  · rw [drawLine_of_cons h]
    exact ⟨rfl, rfl⟩
  · rw [← drawLine_events s]
    rfl
  · rw [emit_mem, storeLine_drawLine_mem, terminator_eq hs]
    exact readPhys_writeBytes_line s.mem _ (drawLine s).1 0x24

/-- Settles O36: the step's only new event is the request, and a run ends with the step that makes it. -/
theorem terminateOnlyTellsTheHost : Obligations.TerminateOnlyTellsTheHost := by
  intro s hs
  have hexec : exec (.intImm8 0x20) s = .next (emit s .terminateRequest) := exec_int_terminate hs
  refine ⟨hexec, fun hp n hdec fuel => ?_⟩
  have hstep : step s = .next (advanceIp (emit s .terminateRequest) n) :=
    step_next.mpr ⟨_, n, _, fetchInstr_of_decode hp hdec, hexec, rfl⟩
  have hnew : newEvents s (advanceIp (emit s .terminateRequest) n) = [.terminateRequest] := newEvents_append rfl
  exact runSteps_of_terminateRequest hstep (by simp [hnew]) fuel

end Sys2Proof.Proofs
end

section
/-! PROOFS. The direct memory commands: what each answers where its page exists and its range is in bounds, where it is
OutOfRange, and the bytes it stores, finds or lists (R210 to R219). -/

namespace Sys2Proof.Machine

open Sys2Proof.Spec

/-! ### Ranges of memory -/

/-- A range that reads as given bytes reads so at each of its indices. -/
theorem readBytes_eq_iff {m : Memory} {a : Nat} {bs : List Byte} :
    readBytes m a bs.length = bs ↔ ∀ i, i < bs.length → bs[i]? = some (readPhys m (a + i)) := by
  refine ⟨fun h i hi => ?_, fun h => List.ext_getElem (length_readBytes m a _) fun i hi hb => ?_⟩
  · rw [← getElem?_readBytes hi, h]
  · rw [getElem_readBytes, ← Option.some_inj, ← h i hb, List.getElem?_eq_getElem hb]

/-- A copied range reads as the range it was copied from read. -/
theorem readPhys_writeBytes_readBytes (m src : Memory) (a b : Nat) {n i : Nat} (hi : i < n) :
    readPhys (writeBytes m a (readBytes src b n)) (a + i) = readPhys src (b + i) := by
  have hstored := getElem?_writeBytes m a (readBytes src b n) (i := i) (by rwa [length_readBytes])
  rw [getElem?_readBytes hi] at hstored
  exact (Option.some.inj hstored).symm

/-- The inclusive range ends with the byte at its last offset (R210). -/
theorem phys_add_rangeLen (p : Word) {start stop : Word} (h : start.toNat ≤ stop.toNat) :
    phys p start + rangeLen start stop = phys p stop + 1 := by
  rw [phys, phys, rangeLen]; omega

/-- Two ranges of one length, each within its page, share a byte exactly where R217's test says so. -/
theorem exists_shared_iff {p q o u : Word} {n : Nat} (ho : o.toNat + n ≤ pageSize) (hu : u.toNat + n ≤ pageSize) :
    (∃ x, phys p o ≤ x ∧ x < phys p o + n ∧ phys q u ≤ x ∧ x < phys q u + n) ↔
      p = q ∧ o.toNat + 1 ≤ u.toNat + n ∧ u.toNat + 1 ≤ o.toNat + n := by
  rw [pageSize] at ho hu
  constructor
  · rintro ⟨x, hox, hxo, hux, hxu⟩
    rw [phys, pageSize] at hox hxo hux hxu
    have hpage : p.toNat = q.toNat := by omega
    exact ⟨BitVec.eq_of_toNat_eq hpage, by omega, by omega⟩
  · rintro ⟨rfl, hou, huo⟩
    refine ⟨max (phys p o) (phys p u), ?_⟩
    rw [phys, phys]
    omega

/-! ### Where an address argument points (R41, R210) -/

theorem locate_of_names_ok {s : State} {a : Addr} {p o : Word} (hn : Names s a p o) (hp : PageExists s p) :
    locate s a = .ok (p, o) := (locate_of_names hn).trans (locate_ok o hp)

theorem locate_of_names_error {s : State} {a : Addr} {p o : Word} (hn : Names s a p o) (hp : ¬ PageExists s p) :
    locate s a = .error .outOfRange := (locate_of_names hn).trans (locate_error o hp)

/-! ### Commands at one address (R211 to R215) -/

section OneAddress
variable {s : State} {a : Addr} {p o : Word} (hn : Names s a p o)
include hn

theorem perform_peek_outOfRange (hp : ¬ PageExists s p) : perform (.peek a) s = .fault .outOfRange := by
  simp only [perform, peek, locate_of_names_error hn hp, answer]

theorem perform_poke_outOfRange (hp : ¬ PageExists s p) (b : Byte) : perform (.poke a b) s = .fault .outOfRange := by
  simp only [perform, poke, locate_of_names_error hn hp, change]

/-- A string is refused for its page or for its length. -/
theorem perform_pokeString_outOfRange {bytes : List Byte}
    (h : ¬ PageExists s p ∨ pageSize < o.toNat + bytes.length) :
    perform (.pokeString a bytes) s = .fault .outOfRange := by
  by_cases hp : PageExists s p
  · have hlen : ¬ o.toNat + bytes.length ≤ pageSize := Nat.not_le_of_lt (h.resolve_left (not_not_intro hp))
    simp only [perform, pokeString, locate_of_names_ok hn hp, storeInPage_error s p hlen, change]
  · simp only [perform, pokeString, locate_of_names_error hn hp, change]

/-- A fill is refused for its page or for its end before its start. -/
theorem perform_fill_outOfRange {stop : Word} (h : ¬ PageExists s p ∨ stop.toNat < o.toNat) (pat : Option Pattern) :
    perform (.fill a stop pat) s = .fault .outOfRange := by
  by_cases hp : PageExists s p
  · have hle : ¬ o.toNat ≤ stop.toNat := Nat.not_le_of_lt (h.resolve_left (not_not_intro hp))
    simp only [perform, fillRange, locate_of_names_ok hn hp, if_neg hle, change]
  · simp only [perform, fillRange, locate_of_names_error hn hp, change]

theorem perform_search_outOfRange (hp : ¬ PageExists s p) (pat : Pattern) :
    perform (.search a pat) s = .fault .outOfRange := by
  simp only [perform, searchPage, locate_of_names_error hn hp, answer]

variable (hp : PageExists s p)
include hp

theorem perform_peek : perform (.peek a) s = .next (.byte (readPhys s.mem (phys p o)), s) := by
  simp only [perform, peek, locate_of_names_ok hn hp, answer, byteAt]

theorem perform_poke (b : Byte) :
    perform (.poke a b) s = .next (.unit, { s with mem := writePhys s.mem (phys p o) b }) := by
  simp only [perform, poke, locate_of_names_ok hn hp, change]

theorem perform_pokeString {bytes : List Byte} (h : o.toNat + bytes.length ≤ pageSize) :
    perform (.pokeString a bytes) s = .next (.unit, { s with mem := writeBytes s.mem (phys p o) bytes }) := by
  simp only [perform, pokeString, locate_of_names_ok hn hp, storeInPage_ok s p h, change]

theorem perform_fill {stop : Word} (h : o.toNat ≤ stop.toNat) (pat : Option Pattern) :
    perform (.fill a stop pat) s =
      .next (.unit, { s with
        mem := writeBytes s.mem (phys p o) (cycle (pat.getD ⟨0, []⟩) (rangeLen o stop)) }) := by
  simp only [perform, fillRange, locate_of_names_ok hn hp, if_pos h, change]

end OneAddress

/-! ### What a fill stores (R213) -/

section Fill
variable (m : Memory) (p : Word) {start stop : Word} (pat : Pattern)

theorem getElem?_patternBytes_filled {i : Nat} (hi : i ≤ stop.toNat - start.toNat) :
    (patternBytes pat)[i % (patternBytes pat).length]? =
      some (readPhys (writeBytes m (phys p start) (cycle pat (rangeLen start stop))) (phys p start + i)) := by
  have hlt : i < rangeLen start stop := Nat.lt_succ_of_le hi
  rw [← getElem?_cycle pat hlt, getElem?_writeBytes m _ _ (by rwa [length_cycle])]

variable (h : start.toNat ≤ stop.toNat)
include h

theorem readPhys_filled_other {x : Nat} (hx : x < phys p start ∨ phys p stop < x) :
    readPhys (writeBytes m (phys p start) (cycle pat (rangeLen start stop))) x = readPhys m x := by
  have hend := phys_add_rangeLen p h
  exact readPhys_writeBytes_other m _ (by rw [length_cycle]; omega)

/-- The pattern of one zero byte leaves zeros. -/
theorem readPhys_zero_filled {x : Nat} (hfirst : phys p start ≤ x) (hlast : x ≤ phys p stop) :
    readPhys (writeBytes m (phys p start) (cycle ⟨0, []⟩ (rangeLen start stop))) x = 0x00 := by
  obtain ⟨i, rfl⟩ := Nat.exists_eq_add_of_le hfirst
  have hend := phys_add_rangeLen p h
  rw [rangeLen] at hend
  have hbyte := getElem?_patternBytes_filled m p (start := start) (stop := stop) ⟨0, []⟩ (i := i) (by omega)
  rw [patternBytes, List.length_singleton, Nat.mod_one] at hbyte
  exact (Option.some.inj hbyte).symm

end Fill

/-! ### RESOLVE_RANGE (R219) -/

section ResolveRange
variable {s : State} {page : Option Word} {start stop : Nat}

theorem perform_resolveRange (hp : PageExists s (page.getD s.ap)) (h : start ≤ min stop 0xFFFF) :
    perform (.resolveRange page start stop) s = .next (.range (page.getD s.ap) start (min stop 0xFFFF), s) := by
  have hok : validPage s.cfg (page.getD s.ap) ∧ start ≤ 0xFFFF ∧ start ≤ min stop 0xFFFF :=
    ⟨(validPage_eq _ _).mpr hp, h.trans (Nat.min_le_right ..), h⟩
  simp only [perform, resolveRange, if_pos hok, answer]

theorem perform_resolveRange_outOfRange (h : ¬ PageExists s (page.getD s.ap) ∨ min stop 0xFFFF < start) :
    perform (.resolveRange page start stop) s = .fault .outOfRange := by
  have hno : ¬ (validPage s.cfg (page.getD s.ap) ∧ start ≤ 0xFFFF ∧ start ≤ min stop 0xFFFF) := by
    rw [validPage_eq]
    rintro ⟨hp, -, hle⟩
    exact h.elim (· hp) (Nat.not_lt_of_le hle)
  simp only [perform, resolveRange, if_neg hno, answer]

end ResolveRange

/-! ### SEARCH (R215) -/

/-- Numbers below 65536 made words: none of the words stands for another number. -/
theorem mem_map_ofNat_iff {ns : List Nat} (h : ∀ n ∈ ns, n < 65536) {q : Word} :
    q ∈ ns.map (BitVec.ofNat 16) ↔ q.toNat ∈ ns := by
  rw [List.mem_map]
  refine ⟨?_, fun hq => ⟨q.toNat, hq, by rw [BitVec.ofNat_toNat, BitVec.setWidth_eq]⟩⟩
  rintro ⟨n, hn, rfl⟩
  rwa [BitVec.toNat_ofNat, Nat.mod_eq_of_lt (h n hn)]

/-- And the words are in the numbers' order. -/
theorem pairwise_map_ofNat {ns : List Nat} (h : ∀ n ∈ ns, n < 65536) (hlt : ns.Pairwise (· < ·)) :
    (ns.map (BitVec.ofNat 16)).Pairwise fun x y => x.toNat < y.toNat := by
  rw [List.pairwise_map]
  refine hlt.imp_of_mem fun hx hy hxy => ?_
  rwa [BitVec.toNat_ofNat, BitVec.toNat_ofNat, Nat.mod_eq_of_lt (h _ hx), Nat.mod_eq_of_lt (h _ hy)]

/-- The offsets from `start` on where the bytes stand inside page `p`, ascending. -/
def matchOffsets (m : Memory) (p : Word) (start : Nat) (bs : List Byte) : List Nat :=
  (List.range' start (pageSize - start)).filter fun q =>
    decide (q + bs.length ≤ pageSize) && readBytes m (p.toNat * pageSize + q) bs.length == bs

section MatchOffsets
variable {m : Memory} {p : Word} {start : Nat} {bs : List Byte}

theorem mem_matchOffsets (hpos : 0 < bs.length) {q : Nat} :
    q ∈ matchOffsets m p start bs ↔
      start ≤ q ∧ q + bs.length ≤ pageSize ∧ readBytes m (p.toNat * pageSize + q) bs.length = bs := by
  simp only [matchOffsets, List.mem_filter, List.mem_range'_1, Bool.and_eq_true, decide_eq_true_iff, beq_iff_eq]
  constructor
  · rintro ⟨⟨hstart, -⟩, hpage, hbytes⟩
    exact ⟨hstart, hpage, hbytes⟩
  · rintro ⟨hstart, hpage, hbytes⟩
    exact ⟨⟨hstart, by omega⟩, hpage, hbytes⟩

theorem matchOffsets_lt (hpos : 0 < bs.length) : ∀ q ∈ matchOffsets m p start bs, q < 65536 := by
  intro q hq
  obtain ⟨-, hpage, -⟩ := (mem_matchOffsets hpos).mp hq
  rw [pageSize] at hpage
  omega

theorem matchOffsets_pairwise : (matchOffsets m p start bs).Pairwise (· < ·) :=
  List.Pairwise.filter _ List.pairwise_lt_range'

end MatchOffsets

theorem perform_search {s : State} {a : Addr} {p start : Word} (hn : Names s a p start) (hp : PageExists s p)
    (pat : Pattern) :
    perform (.search a pat) s =
      .next (.offsets ((matchOffsets s.mem p start.toNat (patternBytes pat)).map (BitVec.ofNat 16)), s) := by
  simp only [perform, searchPage, locate_of_names_ok hn hp, answer, matchOffsets]

/-! ### Commands at two addresses (R216, R217) -/

/-- The differing bytes of two ranges of `n` bytes, ascending, with the offset in the first (R216). -/
def rangeDifferences (m : Memory) (pa start pb other : Word) (n : Nat) : List (Word × Byte × Byte) :=
  (List.range n).filterMap fun i =>
    let x := readPhys m (phys pa start + i)
    let y := readPhys m (phys pb other + i)
    if x = y then none else some (start + BitVec.ofNat 16 i, x, y)

theorem toNat_add_ofNat {o : Word} {i : Nat} (h : o.toNat + i ≤ 0xFFFF) :
    (o + BitVec.ofNat 16 i).toNat = o.toNat + i := by
  rw [BitVec.toNat_add, BitVec.toNat_ofNat]; omega

section RangeDifferences
variable {m : Memory} {pa start stop pb other : Word}

theorem mem_rangeDifferences (h : start.toNat ≤ stop.toNat) {u : Word} {x y : Byte} :
    (u, x, y) ∈ rangeDifferences m pa start pb other (rangeLen start stop) ↔
      start.toNat ≤ u.toNat ∧ u.toNat ≤ stop.toNat ∧ x = readPhys m (phys pa u) ∧
        y = readPhys m (phys pb other + (u.toNat - start.toNat)) ∧ x ≠ y := by
  have hstop := stop.isLt
  simp only [rangeDifferences, List.mem_filterMap, List.mem_range, rangeLen]
  constructor
  · rintro ⟨i, hi, hentry⟩
    split at hentry
    · cases hentry
    · next hne =>
      cases hentry
      have hu := toNat_add_ofNat (o := start) (i := i) (by omega)
      have hphys : phys pa (start + BitVec.ofNat 16 i) = phys pa start + i := by rw [phys, phys, hu]; omega
      rw [hphys, hu, Nat.add_sub_cancel_left]
      exact ⟨by omega, by omega, rfl, rfl, hne⟩
  · rintro ⟨hfirst, hlast, rfl, rfl, hne⟩
    have hu : start + BitVec.ofNat 16 (u.toNat - start.toNat) = u :=
      BitVec.eq_of_toNat_eq (by rw [toNat_add_ofNat (by omega)]; omega)
    have hphys : phys pa start + (u.toNat - start.toNat) = phys pa u := by rw [phys, phys]; omega
    exact ⟨u.toNat - start.toNat, by omega, by rw [hphys, hu, if_neg hne]⟩

theorem rangeDifferences_pairwise (h : start.toNat ≤ stop.toNat) :
    (rangeDifferences m pa start pb other (rangeLen start stop)).Pairwise fun x y => x.1.toNat < y.1.toNat := by
  have hstop := stop.isLt
  rw [rangeDifferences, List.pairwise_filterMap]
  refine List.pairwise_lt_range.imp_of_mem fun {i j} hi hj hij d hd e he => ?_
  rw [List.mem_range, rangeLen] at hi hj
  dsimp only at hd he
  split at hd
  · cases hd
  split at he
  · cases he
  cases hd
  cases he
  rw [toNat_add_ofNat (by omega), toNat_add_ofNat (by omega)]
  omega

end RangeDifferences

/-- Two ranges are refused for a page, for the end before the start, or for a second range past its page. -/
def RangesRefused (s : State) (pa start stop pb other : Word) : Prop :=
  ¬ PageExists s pa ∨ ¬ PageExists s pb ∨ stop.toNat < start.toNat ∨ pageSize < other.toNat + rangeLen start stop

section TwoAddresses
variable {s : State} {a b : Addr} {pa start stop pb other : Word} (ha : Names s a pa start) (hb : Names s b pb other)
include ha hb

/-- Where the check of two ranges ends: at a page, or at the bounds. -/
theorem RangesRefused.cases (h : RangesRefused s pa start stop pb other) :
    locate s a = .error .outOfRange ∨
    (locate s a = .ok (pa, start) ∧ locate s b = .error .outOfRange) ∨
    (locate s a = .ok (pa, start) ∧ locate s b = .ok (pb, other) ∧
      ¬ (start.toNat ≤ stop.toNat ∧ other.toNat + rangeLen start stop ≤ pageSize)) := by
  by_cases hpa : PageExists s pa
  · by_cases hpb : PageExists s pb
    · refine .inr (.inr ⟨locate_of_names_ok ha hpa, locate_of_names_ok hb hpb, fun ⟨hle, hfit⟩ => ?_⟩)
      obtain hno | hno | hlt | hpast := h
      · exact hno hpa
      · exact hno hpb
      · exact Nat.not_lt_of_le hle hlt
      · exact Nat.not_lt_of_le hfit hpast
    · exact .inr (.inl ⟨locate_of_names_ok ha hpa, locate_of_names_error hb hpb⟩)
  · exact .inl (locate_of_names_error ha hpa)

theorem perform_compare_outOfRange (h : RangesRefused s pa start stop pb other) :
    perform (.compare a stop b) s = .fault .outOfRange := by
  obtain hla | ⟨hla, hlb⟩ | ⟨hla, hlb, hno⟩ := h.cases ha hb
  · simp only [perform, compareRanges, hla, answer]
  · simp only [perform, compareRanges, hla, hlb, answer]
  · simp only [perform, compareRanges, hla, hlb, if_neg hno, answer]

theorem perform_move_outOfRange (h : RangesRefused s pa start stop pb other) :
    perform (.move a stop b) s = .fault .outOfRange := by
  obtain hla | ⟨hla, hlb⟩ | ⟨hla, hlb, hno⟩ := h.cases ha hb
  · simp only [perform, moveRange, hla, change]
  · simp only [perform, moveRange, hla, hlb, change]
  · simp only [perform, moveRange, hla, hlb, if_neg hno, change]

variable (hpa : PageExists s pa) (hpb : PageExists s pb) (hle : start.toNat ≤ stop.toNat)
  (hfit : other.toNat + rangeLen start stop ≤ pageSize)
include hpa hpb hle hfit

theorem perform_compare :
    perform (.compare a stop b) s =
      .next (.differences (rangeDifferences s.mem pa start pb other (rangeLen start stop)), s) := by
  simp only [perform, compareRanges, locate_of_names_ok ha hpa, locate_of_names_ok hb hpb, if_pos (And.intro hle hfit), answer,
    rangeDifferences]

/-- The condition is R217's test. -/
theorem perform_move_overlap
    (h : pa = pb ∧ start.toNat + 1 ≤ other.toNat + rangeLen start stop ∧ other.toNat ≤ stop.toNat) :
    perform (.move a stop b) s = .fault .overlapError := by
  simp only [perform, moveRange, locate_of_names_ok ha hpa, locate_of_names_ok hb hpb, if_pos (And.intro hle hfit), if_pos h,
    change]

theorem perform_move
    (h : ¬ (pa = pb ∧ start.toNat + 1 ≤ other.toNat + rangeLen start stop ∧ other.toNat ≤ stop.toNat)) :
    perform (.move a stop b) s =
      .next (.unit, { s with
        mem := writeBytes s.mem (phys pb other) (readBytes s.mem (phys pa start) (rangeLen start stop)) }) := by
  simp only [perform, moveRange, locate_of_names_ok ha hpa, locate_of_names_ok hb hpb, if_pos (And.intro hle hfit), if_neg h,
    change]

end TwoAddresses

end Sys2Proof.Machine

namespace Sys2Proof.Proofs

open Sys2Proof.Machine Sys2Proof.Spec

/-- Settles O50: each command by its rule, and then the laws of a store; an empty string is stored by changing nothing. -/
theorem pokeStoresAndPeekReads : Obligations.PokeStoresAndPeekReads := by
  refine fun s a p o b bytes hn => ⟨fun hp => ⟨perform_peek hn hp, ?poke, ?pokeString, ?empty, ?past⟩, fun hp =>
    ⟨perform_poke_outOfRange hn hp b, perform_peek_outOfRange hn hp, perform_pokeString_outOfRange hn (.inl hp)⟩⟩
  case poke =>
    refine ⟨_, perform_poke hn hp b, rfl, ?_, fun x hx => readPhys_writePhys_other s.mem b hx⟩
    have after : Names { s with mem := writePhys s.mem (phys p o) b } a p o := hn
    rw [perform_peek after hp, readPhys_writePhys_same]
  case pokeString =>
    exact fun hlen => ⟨_, perform_pokeString hn hp hlen, rfl, fun i hi => getElem?_writeBytes s.mem _ bytes hi,
      fun x hx => readPhys_writeBytes_other s.mem bytes hx⟩
  case empty => exact perform_pokeString (bytes := []) hn hp o.isLt.le
  case past => exact fun hlen => perform_pokeString_outOfRange hn (.inr hlen)

/-- Settles O51: a fill stores the repeated pattern over the range, of which the zero fill is the case of one zero byte. -/
theorem fillCyclesThePatternOverTheRange : Obligations.FillCyclesThePatternOverTheRange := by
  refine ⟨fun s a p start stop hn => ⟨fun hp hle => ⟨fun pat => ?_, ?_⟩, fun q h => perform_fill_outOfRange hn h q⟩,
    fun s page start stop => ⟨perform_resolveRange, perform_resolveRange_outOfRange⟩⟩
  · exact ⟨_, perform_fill hn hp hle (some pat), rfl, fun i => getElem?_patternBytes_filled s.mem p pat,
      fun x => readPhys_filled_other s.mem p pat hle⟩
  · exact ⟨_, perform_fill hn hp hle none, rfl, fun x => readPhys_zero_filled s.mem p hle,
      fun x => readPhys_filled_other s.mem p ⟨0, []⟩ hle⟩

/-- Settles O52: the numbers SEARCH keeps are below 65536, so as words they are the same offsets in the same order. -/
theorem searchFindsExactlyTheMatches : Obligations.SearchFindsExactlyTheMatches := by
  refine fun s a p start pat hn => ⟨fun hp => ?_, fun hp => perform_search_outOfRange hn hp pat⟩
  have hpos := patternBytes_length_pos pat
  refine ⟨_, perform_search hn hp pat, pairwise_map_ofNat (matchOffsets_lt hpos) matchOffsets_pairwise, fun q => ?_⟩
  have hpage : q.toNat + (patternBytes pat).length ≤ pageSize ↔ q.toNat + (patternBytes pat).length - 1 ≤ 0xFFFF := by
    rw [pageSize]; omega
  rw [mem_map_ofNat_iff (matchOffsets_lt hpos), mem_matchOffsets hpos, hpage, readBytes_eq_iff]
  rfl

/-- Settles O53: COMPARE answers the differences of the two ranges, whose offsets do not wrap within the page. -/
theorem compareListsExactlyTheDifferences : Obligations.CompareListsExactlyTheDifferences := by
  intro s a b pa start stop pb other ha hb
  refine ⟨fun hpa hpb hle hfit => ?_, fun h => perform_compare_outOfRange ha hb ?_⟩
  · refine ⟨_, perform_compare ha hb hpa hpb hle ?_, rangeDifferences_pairwise hle, fun u x y => mem_rangeDifferences hle⟩
    rw [rangeLen, pageSize]; omega
  · rw [RangesRefused, rangeLen, pageSize]; omega

/-- Settles O54: the model's test is that of a shared byte, and without one the copy's store leaves the source as it was. -/
theorem moveCopiesOrRefusesOverlap : Obligations.MoveCopiesOrRefusesOverlap := by
  intro s a b ps start stop pd dest ha hb n
  have hstop := stop.isLt
  refine ⟨fun hps hpd hle hlast => ?_, fun h => perform_move_outOfRange ha hb ?_⟩
  · have hfit : dest.toNat + n ≤ pageSize := by rw [pageSize]; omega
    have htest : (∃ x, phys ps start ≤ x ∧ x < phys ps start + n ∧ phys pd dest ≤ x ∧ x < phys pd dest + n) ↔
        ps = pd ∧ start.toNat + 1 ≤ dest.toNat + n ∧ dest.toNat ≤ stop.toNat := by
      have hend : dest.toNat + 1 ≤ start.toNat + n ↔ dest.toNat ≤ stop.toNat := by omega
      rw [exists_shared_iff (by rw [pageSize]; omega) hfit, hend]
    rw [htest]
    refine ⟨perform_move_overlap ha hb hps hpd hle hfit, fun hno => ?_⟩
    exact ⟨_, perform_move ha hb hps hpd hle hfit hno, rfl, fun i => readPhys_writeBytes_readBytes s.mem s.mem _ _,
      fun x hx => readPhys_writeBytes_other s.mem _ (by rwa [length_readBytes])⟩
  · rw [RangesRefused, rangeLen, pageSize]; omega

end Sys2Proof.Proofs
end

section
/-! PROOFS. The page selector and the cursor: what SET_PAGE, CODE_STORE and a line of interactive assembly answer, and that the
services of `int` do not see the active page (R44, R196, R221 to R223). -/

namespace Sys2Proof.Machine

open Sys2Proof.Spec

/-! ### CODE_STORE (R223) -/

section CodeStore
variable {s : State} {bytes : List Byte}

theorem perform_codeStore (h : s.cur.toNat + bytes.length ≤ pageSize) :
    perform (.codeStore bytes) s =
      .next (.unit, { s with mem := writeBytes s.mem (phys s.ap s.cur) bytes,
                             cur := s.cur + BitVec.ofNat 16 bytes.length }) := by
  simp only [perform, codeStore, storeInPage_ok s s.ap h, change]

theorem perform_codeStore_outOfRange (h : pageSize < s.cur.toNat + bytes.length) :
    perform (.codeStore bytes) s = .fault .outOfRange := by
  simp only [perform, codeStore, storeInPage_error s s.ap (Nat.not_le_of_lt h), change]

theorem assembleLine_error {line : Text} {e : Err} (h : assemble s.cfg line = .error e) :
    assembleLine line s = .fault e := by
  simp only [assembleLine, h]

theorem assembleLine_ok {line : Text} (h : assemble s.cfg line = .ok bytes) :
    assembleLine line s = perform (.codeStore bytes) s := by
  simp only [assembleLine, h]

end CodeStore

/-! ### SET_PAGE (R221) -/

theorem perform_setPage {s : State} {q : Word} (h : PageExists s q) :
    perform (.setPage q) s = .next (.unit, { s with ap := q }) := by
  simp only [perform, setPage, if_pos ((validPage_eq s.cfg q).mpr h), change]

theorem perform_setPage_outOfRange {s : State} {q : Word} (h : ¬ PageExists s q) :
    perform (.setPage q) s = .fault .outOfRange := by
  simp only [perform, setPage, validPage_eq, if_neg h, change]

/-- The memory forms of an instruction that keeps the two-operand rule work on the active page. -/
theorem memoryForms_of_twoOperandRule {m : Mnemonic} {base : Nat} {F : TwoForms} {f8 : Byte → Byte → Flags → Byte × Flags}
    {f16 : Word → Word → Flags → Word × Flags} (h : TwoOperandRule m base F f8 f16) {s : State} (hp : PageExists s s.ap) :
    TwoMemoryForms F f8 f16 s s.ap := by
  obtain ⟨-, hcompletes, -⟩ := h
  obtain ⟨-, -, -, -, hmem⟩ := hcompletes s
  exact hmem hp

/-! ### The services and the active page (R44, R196) -/

/-- The same result, with page `q` active in the next state. -/
def withActivePage (q : Word) : Result → Result
  | .next t => .next { t with ap := q }
  | .fault f => .fault f
  | .refused r => .refused r

theorem withActivePage_ite (q : Word) (c : Prop) [Decidable c] (x y : Result) :
    withActivePage q (if c then x else y) = if c then withActivePage q x else withActivePage q y :=
  apply_ite (withActivePage q) c x y

section Services
variable (s : State) (q : Word)

theorem servicePage_with_ap : servicePage { s with ap := q } = servicePage s := readReg16_with_ap s q _

theorem serviceOffset_with_ap : serviceOffset { s with ap := q } = serviceOffset s := readReg16_with_ap s q _

theorem drawLine_with_ap : drawLine { s with ap := q } = ((drawLine s).1, { (drawLine s).2 with ap := q }) := by
  simp only [drawLine]
  cases s.hostLines <;> rfl

theorem storeLine_with_ap (l : List Byte) : storeLine { s with ap := q } l = { storeLine s l with ap := q } := by
  rw [storeLine, servicePage_with_ap, serviceOffset_with_ap, storeLine]

theorem printService_with_ap : printService { s with ap := q } = withActivePage q (printService s) := by
  rw [printService, servicePage_with_ap, serviceOffset_with_ap, printService, withActivePage_ite]
  cases scanString s.mem s.cfg.services.terminator (phys (servicePage s) (serviceOffset s))
    (pageSize - (serviceOffset s).toNat) <;> rfl

theorem readLineService_with_ap : readLineService { s with ap := q } = withActivePage q (readLineService s) := by
  simp only [readLineService, servicePage_with_ap, serviceOffset_with_ap, drawLine_with_ap, storeLine_with_ap,
    withActivePage_ite]
  rfl

theorem terminateService_with_ap : terminateService { s with ap := q } = withActivePage q (terminateService s) := rfl

/-- The page of a service is a register's value, so `int` does the same whatever page is active. -/
theorem execIntImm8_with_ap (n : Byte) : execIntImm8 n { s with ap := q } = withActivePage q (execIntImm8 n s) := by
  simp only [execIntImm8, printService_with_ap, readLineService_with_ap, terminateService_with_ap, withActivePage_ite]
  rfl

end Services

end Sys2Proof.Machine

namespace Sys2Proof.Proofs

open Sys2Proof.Machine Sys2Proof.Spec

/-- Settles O56: CODE_STORE by its rule and the laws of a store; a line of assembly is CODE_STORE of its bytes. -/
theorem codeStoreAdvancesTheCursor : Obligations.CodeStoreAdvancesTheCursor := by
  refine fun s bytes => ⟨fun _ hlen => ?_, perform_codeStore_outOfRange, fun line e => assembleLine_error,
    fun line => assembleLine_ok, rfl, fun o => rfl⟩
  refine ⟨_, perform_codeStore hlen, rfl, ?_, fun i hi => getElem?_writeBytes s.mem _ bytes hi,
    fun x hx => readPhys_writeBytes_other s.mem bytes hx⟩
  rw [BitVec.toNat_add, BitVec.toNat_ofNat, Nat.add_mod_mod]

/-- Settles O55: with the new page active, each rule of the active page speaks of that page; the services have their page in a
register. -/
theorem setPageSelectsOnlyExistingPages : Obligations.SetPageSelectsOnlyExistingPages := by
  refine fun s q => ⟨perform_setPage_outOfRange, fun hq => ?_⟩
  intro u
  have hpage : PageExists u u.ap := hq
  refine ⟨perform_setPage hq, rfl, fun i n t hdec hexec => ?step, memoryForms_of_twoOperandRule movCopiesItsSource hpage,
    memoryForms_of_twoOperandRule addWritesSumAndSixFlags hpage,
    memoryForms_of_twoOperandRule subWritesDifferenceAndSixFlags hpage,
    memoryForms_of_twoOperandRule andWritesBitsAndClearsCarry hpage,
    memoryForms_of_twoOperandRule orWritesBitsAndClearsCarry hpage,
    memoryForms_of_twoOperandRule xorWritesBitsAndClearsCarry hpage, fun r hsp => ?push, fun d hsp => ?pop,
    fun bytes hlen => ?codeStore, execIntImm8_with_ap s q⟩
  case step =>
    rw [step_next.mpr ⟨i, n, t, fetchInstr_of_decode hpage hdec, hexec, rfl⟩, advanceIp_exec hexec]
  case push =>
    rw [← readReg16_with_ap s q r]
    exact pushWord_completes hpage hsp (readReg16 u r)
  case pop => exact ⟨_, execPopReg16_completes hpage hsp d, readReg16_popped_dest u _⟩
  case codeStore =>
    obtain ⟨hstore, -⟩ := codeStoreAdvancesTheCursor u bytes
    obtain ⟨t, ht, hframe, -, hin, hout⟩ := hstore hpage hlen
    exact ⟨t, ht, hframe, hin, hout⟩

end Sys2Proof.Proofs
end

section
/-! PROOFS. The virtual disk: what DISK_LOAD leaves, what DISK_SAVE and DISK_BYTES answer, and a transfer of sectors as one rule
for both directions, with what it copies and what it leaves (R231 to R239). -/

namespace Sys2Proof.Machine

open Sys2Proof.Spec

/-! ### The disk and its file (R232, R233, R239) -/

/-- A byte of the loaded disk: the file's, or zero past the file's end and past the disk's. -/
theorem readPhys_diskLoad (s : State) (file : Option (List Byte)) (i : Nat) :
    readPhys (diskLoad s file).disk i = if i < s.cfg.diskSize then (file.getD []).getD i 0 else 0 := by
  rw [diskLoad, readPhys_storeOf, Nat.sub_zero, Nat.zero_add, List.length_take]
  by_cases hdisk : i < s.cfg.diskSize
  · by_cases hfile : i < (file.getD []).length
    · rw [if_pos ⟨i.zero_le, lt_min hdisk hfile⟩, if_pos hdisk, List.getD_eq_getElem?_getD, List.getElem?_take_of_lt hdisk,
        List.getD_eq_getElem?_getD]
    · rw [if_neg (by omega), if_pos hdisk, List.getD_eq_default _ _ (Nat.le_of_not_lt hfile)]
  · rw [if_neg (by omega), if_neg hdisk]

theorem eventsOf_of_next {c : Command} {s t : State} {v : Value} {es : List Event} (h : perform c s = .next (v, t))
    (he : t.events = s.events ++ es) : eventsOf c s = es := by
  rw [eventsOf, stateAfter_next h, he, List.drop_left]

theorem perform_diskBytes {s : State} {first last : Nat} (hle : first ≤ last) (hlt : last < s.cfg.diskSize) :
    perform (.diskBytes first last) s = .next (.bytes (readBytes s.disk first (last - first + 1)), s) := by
  simp only [perform, diskBytes, if_pos (And.intro hle hlt), answer, Nat.sub_add_comm hle]

theorem perform_diskBytes_outOfRange {s : State} {first last : Nat} (h : last < first ∨ s.cfg.diskSize ≤ last) :
    perform (.diskBytes first last) s = .fault .outOfRange := by
  have hno : ¬ (first ≤ last ∧ last < s.cfg.diskSize) := by omega
  simp only [perform, diskBytes, if_neg hno, answer]

/-! ### Transfers (R235 to R237) -/

/-- The state after a DISK_READ: memory from (p, o) on holds what the disk holds from sector `first` on. -/
def sectorsRead (s : State) (p o : Word) (first count : Nat) : State :=
  { s with mem := writeBytes s.mem (phys p o) (readBytes s.disk (first * s.cfg.sectorSize) (count * s.cfg.sectorSize)) }

/-- The state after a DISK_WRITE, the copy the other way. -/
def sectorsWritten (s : State) (p o : Word) (first count : Nat) : State :=
  { s with disk := writeBytes s.disk (first * s.cfg.sectorSize) (readBytes s.mem (phys p o) (count * s.cfg.sectorSize)) }

section Transfers
variable {s : State} {a : Addr} {p o : Word} (hn : Names s a p o) (first count : Nat)
include hn

/-- The conditions of a transfer include that the page exists, so they alone decide what DISK_READ answers. -/
theorem perform_diskRead :
    perform (.diskRead a first count) s =
      if transferOk s.cfg p o first count then .next (.unit, sectorsRead s p o first count) else .fault .outOfRange := by
  by_cases hp : PageExists s p
  · simp only [perform, diskRead, locate_of_names_ok hn hp, apply_ite change]
    rfl
  · have hno : ¬ transferOk s.cfg p o first count = true := fun h => hp ((transferOk_iff ..).mp h).2.1
    simp only [perform, diskRead, locate_of_names_error hn hp, change, if_neg hno]

theorem perform_diskWrite :
    perform (.diskWrite a first count) s =
      if transferOk s.cfg p o first count then .next (.unit, sectorsWritten s p o first count)
      else .fault .outOfRange := by
  by_cases hp : PageExists s p
  · simp only [perform, diskWrite, locate_of_names_ok hn hp, apply_ite change]
    rfl
  · have hno : ¬ transferOk s.cfg p o first count = true := fun h => hp ((transferOk_iff ..).mp h).2.1
    simp only [perform, diskWrite, locate_of_names_error hn hp, change, if_neg hno]

variable {first count}

/-- A transfer that succeeds has copied the sectors. -/
theorem eq_sectorsRead_of_next {t : State} (h : perform (.diskRead a first count) s = .next (.unit, t)) :
    t = sectorsRead s p o first count := by
  rw [perform_diskRead hn] at h
  split at h
  · cases h; rfl
  · cases h

theorem eq_sectorsWritten_of_next {t : State} (h : perform (.diskWrite a first count) s = .next (.unit, t)) :
    t = sectorsWritten s p o first count := by
  rw [perform_diskWrite hn] at h
  split at h
  · cases h; rfl
  · cases h

end Transfers

section Copied
variable (s : State) (p o : Word) (first : Nat) {count : Nat}

theorem readPhys_sectorsRead {i : Nat} (hi : i < count * s.cfg.sectorSize) :
    readPhys (sectorsRead s p o first count).mem (phys p o + i) =
      readPhys s.disk (first * s.cfg.sectorSize + i) :=
  readPhys_writeBytes_readBytes s.mem s.disk _ _ hi

theorem readPhys_sectorsRead_other {x : Nat} (hx : x < phys p o ∨ phys p o + count * s.cfg.sectorSize ≤ x) :
    readPhys (sectorsRead s p o first count).mem x = readPhys s.mem x :=
  readPhys_writeBytes_other s.mem _ (by rwa [length_readBytes])

theorem readPhys_sectorsWritten {i : Nat} (hi : i < count * s.cfg.sectorSize) :
    readPhys (sectorsWritten s p o first count).disk (first * s.cfg.sectorSize + i) =
      readPhys s.mem (phys p o + i) :=
  readPhys_writeBytes_readBytes s.disk s.mem _ _ hi

theorem readPhys_sectorsWritten_other {x : Nat}
    (hx : x < first * s.cfg.sectorSize ∨ (first + count) * s.cfg.sectorSize ≤ x) :
    readPhys (sectorsWritten s p o first count).disk x = readPhys s.disk x :=
  readPhys_writeBytes_other s.disk _ (by rwa [length_readBytes, ← Nat.add_mul])

end Copied

end Sys2Proof.Machine

namespace Sys2Proof.Proofs

open Sys2Proof.Machine Sys2Proof.Spec

/-- Settles O57: the loaded disk byte by byte; the image and the part are ranges read from the disk. -/
theorem diskLoadZeroFillsAndIgnoresExcess : Obligations.DiskLoadZeroFillsAndIgnoresExcess := by
  refine ⟨fun s file => ⟨diskLoad s file, rfl, rfl, fun i hi => ?_, fun i hi => ?_, rfl⟩, fun s => ?_,
    fun s first last => ⟨fun hle hlt => ?_, perform_diskBytes_outOfRange⟩⟩
  · rw [readPhys_diskLoad, if_pos hi]
    split
    · next hfile => exact List.getD_eq_getElem _ _ hfile
    · next hfile => exact List.getD_eq_default _ _ (Nat.le_of_not_lt hfile)
  · rw [readPhys_diskLoad, if_neg (Nat.not_lt_of_le hi)]
  · refine ⟨readBytes s.disk 0 s.cfg.diskSize, rfl, eventsOf_of_next (t := diskSave s) rfl rfl, length_readBytes .., ?_⟩
    intro i hi
    rw [getElem?_readBytes hi, Nat.zero_add]
  · exact ⟨_, perform_diskBytes hle hlt, length_readBytes .., fun i hi => getElem?_readBytes hi⟩

/-- Settles O58: the conditions decide, and then the laws of a copied range. -/
theorem diskTransfersMoveWholeSectors : Obligations.DiskTransfersMoveWholeSectors := by
  intro s a p o first count hn
  rw [perform_diskRead hn, perform_diskWrite hn]
  refine ⟨fun hsectors hp hmem => ?_, fun h => ?_⟩
  · rw [if_pos ((transferOk_iff ..).mpr ⟨hsectors, hp, hmem⟩), if_pos ((transferOk_iff ..).mpr ⟨hsectors, hp, hmem⟩)]
    exact ⟨⟨_, rfl, rfl, fun i => readPhys_sectorsRead s p o first, fun x => readPhys_sectorsRead_other s p o first⟩,
      ⟨_, rfl, rfl, fun i => readPhys_sectorsWritten s p o first, fun x => readPhys_sectorsWritten_other s p o first⟩⟩
  · have hno : ¬ transferOk s.cfg p o first count = true := by
      rw [transferOk_iff, Config.memSize, pageSize]
      omega
    rw [if_neg hno, if_neg hno]
    exact ⟨rfl, rfl⟩

/-- Settles O59: the sectors hold the first range's bytes when they are read, and a read leaves a range apart from its own. -/
theorem diskRoundTripReturnsTheBytes : Obligations.DiskRoundTripReturnsTheBytes := by
  intro s t u a b p o q r first count ha hb hwrite hread i hi
  obtain rfl := eq_sectorsWritten_of_next ha hwrite
  obtain rfl := eq_sectorsRead_of_next hb hread
  have hback := (readPhys_sectorsRead (sectorsWritten s p o first count) q r first hi).trans
    (readPhys_sectorsWritten s p o first hi)
  refine ⟨hback, fun hapart => hback.trans ?_⟩
  have hout : phys p o + i < phys q r ∨ phys q r + count * s.cfg.sectorSize ≤ phys p o + i := by omega
  exact (readPhys_sectorsRead_other (sectorsWritten s p o first count) q r first hout).symm

end Sys2Proof.Proofs
end

section
/-! PROOFS. The sector unit of R231 against the atomic transfer commands: what a run of COPY steps leaves, the whole run from
CHECK to IDLE, and the command of the same transfer. -/

namespace Sys2Proof.Machine

open Sys2Proof.Spec

/-! ### COPY, several bytes at once (R231) -/

/-- The unit with `k` bytes of a transfer copied from byte `i` on. -/
def copyBytes (c : Config) (t : Transfer) (u : SectorUnit) (i k : Nat) : SectorUnit :=
  match t.dir with
  | .diskToMemory =>
    { u with mem := writeBytes u.mem (phys t.page t.offset + i) (readBytes u.disk (t.first * c.sectorSize + i) k) }
  | .memoryToDisk =>
    { u with disk := writeBytes u.disk (t.first * c.sectorSize + i) (readBytes u.mem (phys t.page t.offset + i) k) }

section Unit
variable (c : Config) (t : Transfer) (u : SectorUnit)

theorem copyBytes_zero (i : Nat) : copyBytes c t u i 0 = u := by
  rcases t with ⟨_ | _, p, o, first, count⟩ <;> rfl

/-- The first byte, and then the others. -/
theorem copyBytes_succ (i k : Nat) : copyBytes c t u i (k + 1) = copyBytes c t (copyByte c t u i) (i + 1) k := by
  rcases t with ⟨_ | _, p, o, first, count⟩ <;>
    simp only [copyBytes, copyByte, readBytes_succ, writeBytes, Nat.add_assoc]

theorem copyBytes_with_phase (i k : Nat) (ph : Phase) :
    copyBytes c t { u with phase := ph } i k = { copyBytes c t u i k with phase := ph } := by
  rcases t with ⟨_ | _, p, o, first, count⟩ <;> rfl

/-! ### Runs of the unit (R231) -/

theorem unitRun_add (j k : Nat) : unitRun c t (j + k) u = unitRun c t k (unitRun c t j u) := by
  induction j generalizing u with
  | zero => rw [Nat.zero_add, unitRun]
  | succ j ih => rw [Nat.succ_add, unitRun, ih, unitRun]

variable {c t u}

theorem unitRun_idle (h : u.phase = .idle) (k : Nat) : unitRun c t k u = u := by
  induction k with
  | zero => rfl
  | succ k ih => rw [unitRun, unitStep, h, ih]

theorem unitStep_check (h : u.phase = .check) :
    unitStep c t u =
      if transferOk c t.page t.offset t.first t.count then { u with phase := .copy 0 }
      else { u with phase := .idle, report := some (some .outOfRange) } := by
  rw [unitStep, h]

theorem unitStep_copy {i : Nat} (h : u.phase = .copy i) (hi : i < t.count * c.sectorSize) :
    unitStep c t u = { copyByte c t u i with phase := .copy (i + 1) } := by
  simp only [unitStep, h, if_pos hi]

theorem unitStep_copied (h : u.phase = .copy (t.count * c.sectorSize)) :
    unitStep c t u = { u with phase := .idle, report := some none } := by
  simp only [unitStep, h, if_neg (Nat.lt_irrefl _)]

/-- Within the transfer, `k` steps in COPY copy `k` bytes. -/
theorem unitRun_copy {i k : Nat} (h : u.phase = .copy i) (hk : i + k ≤ t.count * c.sectorSize) :
    unitRun c t k u = { copyBytes c t u i k with phase := .copy (i + k) } := by
  induction k generalizing u i with
  | zero => rw [copyBytes_zero, Nat.add_zero, ← h, unitRun]
  | succ k ih =>
    rw [unitRun, unitStep_copy h (by omega), ih rfl (by omega), copyBytes_with_phase, ← copyBytes_succ, Nat.add_right_comm,
      Nat.add_assoc]

/-- From CHECK to IDLE: a refused transfer reports its error and copies nothing, any other copies all its bytes. -/
theorem unitRun_from_check (h : u.phase = .check) :
    unitRun c t (t.count * c.sectorSize + 2) u =
      if transferOk c t.page t.offset t.first t.count then
        { copyBytes c t u 0 (t.count * c.sectorSize) with phase := .idle, report := some none }
      else { u with phase := .idle, report := some (some .outOfRange) } := by
  rw [unitRun, unitStep_check h]
  split
  · rw [unitRun_add, unitRun_copy rfl (Nat.zero_add _).le, copyBytes_with_phase, Nat.zero_add, unitRun, unitStep_copied rfl,
      unitRun]
  · exact unitRun_idle rfl _

end Unit

/-! ### The command of a transfer (R235, R236) -/

/-- The command that does a transfer as one step of the session. -/
def transferCommand (t : Transfer) : Command :=
  match t.dir with
  | .diskToMemory => .diskRead (.full t.page t.offset) t.first t.count
  | .memoryToDisk => .diskWrite (.full t.page t.offset) t.first t.count

/-- The session after a transfer. -/
def transferred (s : State) (t : Transfer) : State :=
  match t.dir with
  | .diskToMemory => sectorsRead s t.page t.offset t.first t.count
  | .memoryToDisk => sectorsWritten s t.page t.offset t.first t.count

theorem perform_transferCommand (s : State) (t : Transfer) :
    perform (transferCommand t) s =
      if transferOk s.cfg t.page t.offset t.first t.count then .next (.unit, transferred s t)
      else .fault .outOfRange := by
  rcases t with ⟨_ | _, p, o, first, count⟩
  · exact perform_diskRead (.inl rfl) first count
  · exact perform_diskWrite (.inl rfl) first count

/-- All bytes of a transfer, copied by the unit, leave the stores as the command does. -/
theorem copyBytes_unitStart (s : State) (t : Transfer) :
    copyBytes s.cfg t (unitStart s) 0 (t.count * s.cfg.sectorSize) =
      { unitStart s with mem := (transferred s t).mem, disk := (transferred s t).disk } := by
  rcases t with ⟨_ | _, p, o, first, count⟩ <;>
    simp only [copyBytes, unitStart, transferred, sectorsRead, sectorsWritten, Nat.add_zero]

/-- In CHECK the unit touches neither store. -/
theorem unitStep_unitStart_stores (c : Config) (t : Transfer) (s : State) :
    (unitStep c t (unitStart s)).mem = s.mem ∧ (unitStep c t (unitStart s)).disk = s.disk := by
  rw [unitStep_check rfl]
  split <;> exact ⟨rfl, rfl⟩

end Sys2Proof.Machine

namespace Sys2Proof.Proofs

open Sys2Proof.Machine Sys2Proof.Spec

/-- Settles O60: the conditions the unit checks are those of the command, and its bytes one by one are the copied range. -/
theorem sectorUnitRefinesAtomicTransfer : Obligations.SectorUnitRefinesAtomicTransfer := by
  intro s dir p o first count t c u
  have hperform : perform c s = _ := perform_transferCommand s t
  have hu : u = _ := unitRun_from_check (c := s.cfg) (t := t) (u := unitStart s) rfl
  have hcheck := unitStep_unitStart_stores s.cfg t s
  by_cases hok : transferOk s.cfg p o first count = true
  · rw [if_pos hok] at hperform hu
    rw [copyBytes_unitStart] at hu
    rw [hu, stateAfter_next hperform, hperform]
    exact ⟨rfl, rfl, rfl, by simp, by simp, hcheck⟩
  · rw [if_neg hok] at hperform hu
    rw [hu, stateAfter_fault hperform, hperform]
    exact ⟨rfl, rfl, rfl, by simp, by simp, hcheck⟩

end Sys2Proof.Proofs
end

section
/-! PROOFS. Where an instruction ends with an error: each operation answers a next state or the one fault its condition calls
for, so each instruction does, and the table of R252 and the errors of STEP follow (R48, R190, R191, R195, R250, R252). -/

namespace Sys2Proof

/-- An instruction is `push`, `pop` or `int`, or of another mnemonic. -/
theorem Instr.stack_int_or_other (i : Instr) :
    (∃ r, i = .pushReg16 r) ∨ (∃ d, i = .popReg16 d) ∨ (∃ n, i = .intImm8 n) ∨
      (i.mnemonic ≠ .push ∧ i.mnemonic ≠ .pop ∧ i.mnemonic ≠ .int) := by
  cases i with
  | pushReg16 r => exact .inl ⟨r, rfl⟩
  | popReg16 d => exact .inr (.inl ⟨d, rfl⟩)
  | intImm8 n => exact .inr (.inr (.inl ⟨n, rfl⟩))
  | _ => exact .inr (.inr (.inr ⟨nofun, nofun, nofun⟩))

end Sys2Proof

namespace Sys2Proof.Machine

open Sys2Proof.Spec

/-! ### Operations that fault on a condition -/

/-- An access that is AddressOutOfRange under a condition and answers a value otherwise. -/
def RefusedIff {α : Type} (bad : Prop) (x : Except Fault α) : Prop :=
  (bad → x = .error .addressOutOfRange) ∧ (¬ bad → ∃ v, x = .ok v)

/-- A result that is the fault `f` under a condition and a next state otherwise. -/
def FaultsIff (bad : Prop) (f : Fault) (r : Result) : Prop :=
  (bad → r = .fault f) ∧ (¬ bad → ∃ t, r = .next t)

theorem refusedIff_ok {α : Type} (v : α) : RefusedIff False (.ok v) := ⟨False.elim, fun _ => ⟨v, rfl⟩⟩

theorem faultsIff_next (f : Fault) (t : State) : FaultsIff False f (.next t) := ⟨False.elim, fun _ => ⟨t, rfl⟩⟩

section FaultsIff
variable {bad : Prop} {f : Fault} {r : Result}

theorem FaultsIff.congr {bad' : Prop} (h : FaultsIff bad f r) (hbad : bad ↔ bad') : FaultsIff bad' f r := propext hbad ▸ h

theorem FaultsIff.eq_fault_iff (h : FaultsIff bad f r) (e : Fault) : r = .fault e ↔ e = f ∧ bad := by
  obtain ⟨hfault, hnext⟩ := h
  by_cases hbad : bad
  · simp [hfault hbad, hbad, eq_comm]
  · obtain ⟨t, ht⟩ := hnext hbad
    simp [ht, hbad]

theorem FaultsIff.ne_refused (h : FaultsIff bad f r) (q : Refusal) : r ≠ .refused q := by
  by_cases hbad : bad
  · simp [h.1 hbad]
  · obtain ⟨t, ht⟩ := h.2 hbad
    simp [ht]

end FaultsIff

/-- One access and then what goes on with its value. -/
theorem RefusedIff.orRaise {α : Type} {bad bad' : Prop} {x : Except Fault α} {k : α → Result} (hx : RefusedIff bad x)
    (hk : ∀ v, FaultsIff bad' .addressOutOfRange (k v)) :
    FaultsIff (bad ∨ bad') .addressOutOfRange (orRaise x k) := by
  by_cases hbad : bad
  · rw [hx.1 hbad]
    exact ⟨fun _ => rfl, fun hno => absurd (.inl hbad) hno⟩
  · obtain ⟨v, rfl⟩ := hx.2 hbad
    exact (hk v).congr (or_iff_right hbad).symm

/-! ### Operands (R48, R129) -/

/-- A memory operand that cannot be accessed: the active page does not exist, or a 16-bit cell begins at the last offset. -/
def BadOperand (s : State) : Operand → Prop
  | .mem8 _ => ¬ PageExists s s.ap
  | .mem16 m => ¬ (PageExists s s.ap ∧ m.toNat + 1 ≤ 0xFFFF)
  | _ => False

/-- The operand an 8-bit place is. -/
def Loc8.operand : Loc8 → Operand
  | .reg r => .reg8 r
  | .mem m => .mem8 m

/-- The operand a 16-bit place is. -/
def Loc16.operand : Loc16 → Operand
  | .reg r => .reg16 r
  | .mem m => .mem16 m

/-- The operand an 8-bit source is. -/
def Src8.operand : Src8 → Operand
  | .loc l => l.operand
  | .imm v => .imm8 v

/-- The operand a 16-bit source is. -/
def Src16.operand : Src16 → Operand
  | .loc l => l.operand
  | .imm v => .imm16 v

section Operands
variable (s : State)

theorem readLoc8_refusedIff (l : Loc8) : RefusedIff (BadOperand s l.operand) (readLoc8 s l) := by
  cases l with
  | reg r => exact refusedIff_ok _
  | mem m => exact ⟨memRead8_error, fun h => ⟨_, memRead8_ok (not_not.mp h)⟩⟩

theorem readLoc16_refusedIff (l : Loc16) : RefusedIff (BadOperand s l.operand) (readLoc16 s l) := by
  cases l with
  | reg r => exact refusedIff_ok _
  | mem m => exact ⟨memRead16_error, fun h => have ⟨hp, hm⟩ := not_not.mp h; ⟨_, memRead16_ok hp hm⟩⟩

theorem readSrc8_refusedIff (src : Src8) : RefusedIff (BadOperand s src.operand) (readSrc8 s src) := by
  cases src with
  | loc l => exact readLoc8_refusedIff s l
  | imm v => exact refusedIff_ok v

theorem readSrc16_refusedIff (src : Src16) : RefusedIff (BadOperand s src.operand) (readSrc16 s src) := by
  cases src with
  | loc l => exact readLoc16_refusedIff s l
  | imm v => exact refusedIff_ok v

theorem writeLoc8_refusedIff (l : Loc8) (v : Byte) : RefusedIff (BadOperand s l.operand) (writeLoc8 s l v) := by
  cases l with
  | reg r => exact refusedIff_ok _
  | mem m => exact ⟨memWrite8_error, fun h => ⟨_, memWrite8_ok (not_not.mp h)⟩⟩

theorem writeLoc16_refusedIff (l : Loc16) (v : Word) : RefusedIff (BadOperand s l.operand) (writeLoc16 s l v) := by
  cases l with
  | reg r => exact refusedIff_ok _
  | mem m => exact ⟨memWrite16_error, fun h => have ⟨hp, hm⟩ := not_not.mp h; ⟨_, memWrite16_ok hp hm⟩⟩

end Operands

/-! ### The shapes of instruction (R128) -/

/-- Some operand cannot be accessed. -/
def AnyBad (s : State) (ops : List Operand) : Prop := ∃ op ∈ ops, BadOperand s op

theorem anyBad_pair (s : State) (a b : Operand) : AnyBad s [a, b] ↔ BadOperand s a ∨ BadOperand s b := by
  simp [AnyBad]

section Shapes
variable (s : State)

theorem copy8_faultsIff (d : Loc8) (src : Src8) :
    FaultsIff (AnyBad s [d.operand, src.operand]) .addressOutOfRange (copy8 d src s) :=
  ((readSrc8_refusedIff s src).orRaise fun v => (writeLoc8_refusedIff s d v).orRaise (faultsIff_next _)).congr
    (by rw [anyBad_pair, or_false, or_comm])

theorem copy16_faultsIff (d : Loc16) (src : Src16) :
    FaultsIff (AnyBad s [d.operand, src.operand]) .addressOutOfRange (copy16 d src s) :=
  ((readSrc16_refusedIff s src).orRaise fun v => (writeLoc16_refusedIff s d v).orRaise (faultsIff_next _)).congr
    (by rw [anyBad_pair, or_false, or_comm])

/-- The write has the condition of the destination's read, which comes first. -/
theorem binary8_faultsIff (f : Byte → Byte → Flags → Byte × Flags) (d : Loc8) (src : Src8) :
    FaultsIff (AnyBad s [d.operand, src.operand]) .addressOutOfRange (binary8 f d src s) :=
  ((readLoc8_refusedIff s d).orRaise fun a => (readSrc8_refusedIff s src).orRaise fun b =>
    (writeLoc8_refusedIff s d (f a b s.flags).1).orRaise fun _ => faultsIff_next _ _).congr
    (by rw [anyBad_pair]; tauto)

theorem binary16_faultsIff (f : Word → Word → Flags → Word × Flags) (d : Loc16) (src : Src16) :
    FaultsIff (AnyBad s [d.operand, src.operand]) .addressOutOfRange (binary16 f d src s) :=
  ((readLoc16_refusedIff s d).orRaise fun a => (readSrc16_refusedIff s src).orRaise fun b =>
    (writeLoc16_refusedIff s d (f a b s.flags).1).orRaise fun _ => faultsIff_next _ _).congr
    (by rw [anyBad_pair]; tauto)

theorem unary8_faultsIff (f : Byte → Flags → Byte × Flags) (d : Reg8) :
    FaultsIff (AnyBad s [.reg8 d]) .addressOutOfRange (unary8 f (.reg d) s) :=
  (faultsIff_next _ _).congr (by simp [AnyBad, BadOperand])

theorem unary16_faultsIff (f : Word → Flags → Word × Flags) (d : Reg16) :
    FaultsIff (AnyBad s [.reg16 d]) .addressOutOfRange (unary16 f (.reg d) s) :=
  (faultsIff_next _ _).congr (by simp [AnyBad, BadOperand])

end Shapes

/-- Outside the stack and the services an instruction faults exactly for an operand that cannot be accessed. -/
theorem exec_faultsIff {i : Instr} (hpush : i.mnemonic ≠ .push) (hpop : i.mnemonic ≠ .pop) (hint : i.mnemonic ≠ .int)
    (s : State) : FaultsIff (AnyBad s i.operands) .addressOutOfRange (exec i s) := by
  cases i with
  | pushReg16 => exact absurd rfl hpush
  | popReg16 => exact absurd rfl hpop
  | intImm8 => exact absurd rfl hint
  | movMem8Reg8 m r => exact copy8_faultsIff s (.mem m) (.loc (.reg r))
  | movReg8Mem8 d m => exact copy8_faultsIff s (.reg d) (.loc (.mem m))
  | movReg8Reg8 d r => exact copy8_faultsIff s (.reg d) (.loc (.reg r))
  | movReg8Imm8 d v => exact copy8_faultsIff s (.reg d) (.imm v)
  | movMem16Reg16 m r => exact copy16_faultsIff s (.mem m) (.loc (.reg r))
  | movReg16Mem16 d m => exact copy16_faultsIff s (.reg d) (.loc (.mem m))
  | movReg16Reg16 d r => exact copy16_faultsIff s (.reg d) (.loc (.reg r))
  | movReg16Imm16 d v => exact copy16_faultsIff s (.reg d) (.imm v)
  | addMem8Reg8 m r | subMem8Reg8 m r | andMem8Reg8 m r | orMem8Reg8 m r | xorMem8Reg8 m r =>
    exact binary8_faultsIff s _ (.mem m) (.loc (.reg r))
  | addReg8Mem8 d m | subReg8Mem8 d m | andReg8Mem8 d m | orReg8Mem8 d m | xorReg8Mem8 d m =>
    exact binary8_faultsIff s _ (.reg d) (.loc (.mem m))
  | addReg8Reg8 d r | subReg8Reg8 d r | andReg8Reg8 d r | orReg8Reg8 d r | xorReg8Reg8 d r =>
    exact binary8_faultsIff s _ (.reg d) (.loc (.reg r))
  | addReg8Imm8 d v | subReg8Imm8 d v | andReg8Imm8 d v | orReg8Imm8 d v | xorReg8Imm8 d v =>
    exact binary8_faultsIff s _ (.reg d) (.imm v)
  | addMem16Reg16 m r | subMem16Reg16 m r | andMem16Reg16 m r | orMem16Reg16 m r | xorMem16Reg16 m r =>
    exact binary16_faultsIff s _ (.mem m) (.loc (.reg r))
  | addReg16Mem16 d m | subReg16Mem16 d m | andReg16Mem16 d m | orReg16Mem16 d m | xorReg16Mem16 d m =>
    exact binary16_faultsIff s _ (.reg d) (.loc (.mem m))
  | addReg16Reg16 d r | subReg16Reg16 d r | andReg16Reg16 d r | orReg16Reg16 d r | xorReg16Reg16 d r =>
    exact binary16_faultsIff s _ (.reg d) (.loc (.reg r))
  | addReg16Imm16 d v | subReg16Imm16 d v | andReg16Imm16 d v | orReg16Imm16 d v | xorReg16Imm16 d v =>
    exact binary16_faultsIff s _ (.reg d) (.imm v)
  | notReg8 d | negReg8 d | incReg8 d | decReg8 d | shlReg8 d | shrReg8 d | rolReg8 d | rorReg8 d =>
    exact unary8_faultsIff s _ d
  | notReg16 d | negReg16 d | incReg16 d | decReg16 d | shlReg16 d | shrReg16 d | rolReg16 d | rorReg16 d =>
    exact unary16_faultsIff s _ d

/-! ### The stack (R190, R191) -/

theorem pushWord_faultsIff (v : Word) (s : State) :
    FaultsIff ((readReg16 s .sp).toNat < 2 ∨ ¬ PageExists s s.ap) .addressOutOfRange (pushWord v s) := by
  by_cases hsp : (readReg16 s .sp).toNat < 2
  · exact ⟨fun _ => pushWord_faults hsp v, fun h => absurd (.inl hsp) h⟩
  · have hfit : (readReg16 s .sp - 2).toNat + 1 ≤ 0xFFFF := by bv_omega
    rw [pushWord, if_neg hsp]
    refine ((writeLoc16_refusedIff s (.mem (readReg16 s .sp - 2)) v).orRaise fun _ => faultsIff_next _ _).congr ?_
    rw [Loc16.operand, BadOperand, and_iff_left hfit, or_false, or_iff_right hsp]

theorem execPopReg16_faultsIff (d : Reg16) (s : State) :
    FaultsIff (BadOperand s (.mem16 (readReg16 s .sp))) .addressOutOfRange (execPopReg16 d s) :=
  ((readLoc16_refusedIff s (.mem (readReg16 s .sp))).orRaise fun _ => faultsIff_next _ _).congr (or_iff_left id)

/-! ### The services (R195 to R199) -/

section ServiceFaults
variable (s : State)

theorem printService_faultsIff :
    FaultsIff
      (¬ PageExists s (servicePage s) ∨ ∀ k, (serviceOffset s).toNat + k ≤ 0xFFFF →
        readPhys s.mem (phys (servicePage s) (serviceOffset s) + k) ≠ s.cfg.services.terminator)
      .addressOutOfRange (printService s) := by
  refine ⟨fun h => h.elim printService_faults_of_no_page printService_faults_of_no_terminator, fun h => ?_⟩
  obtain ⟨hp, hterm⟩ := not_or.mp h
  have hscan : scanString s.mem s.cfg.services.terminator (phys (servicePage s) (serviceOffset s))
      (pageSize - (serviceOffset s).toNat) ≠ none := fun hnone =>
    hterm fun k hk => scanString_eq_none.mp hnone k (by rw [pageSize]; omega)
  obtain ⟨bytes, hbytes⟩ := Option.ne_none_iff_exists'.mp hscan
  exact ⟨_, printService_next.mpr ⟨not_not.mp hp, bytes, hbytes, rfl⟩⟩

theorem readLineService_faultsIff :
    FaultsIff (¬ PageExists s (servicePage s) ∨ 0xFFFF < (serviceOffset s).toNat + (drawLine s).1.length)
      .addressOutOfRange (readLineService s) := by
  refine ⟨fun h => h.elim readLineService_faults_of_no_page readLineService_faults_of_long_line, fun h => ?_⟩
  obtain ⟨hp, hfit⟩ := not_or.mp h
  exact ⟨_, readLineService_completes (not_not.mp hp) (Nat.le_of_not_lt hfit)⟩

/-- Whatever the services' values, `int` is one of the services or an unsupported number. -/
theorem execIntImm8_faultsIff (n : Byte) :
    (∃ bad, FaultsIff bad .addressOutOfRange (execIntImm8 n s)) ∨ execIntImm8 n s = .fault (.unsupportedService n) := by
  unfold execIntImm8
  split
  · exact .inl ⟨_, printService_faultsIff s⟩
  split
  · exact .inl ⟨_, readLineService_faultsIff s⟩
  split
  · exact .inl ⟨_, faultsIff_next _ _⟩
  · exact .inr rfl

end ServiceFaults

/-! ### All instructions (R252) -/

/-- An instruction is AddressOutOfRange under some condition and completes otherwise, or it is an unsupported service. -/
theorem exec_faultsIff_or_unsupported (i : Instr) (s : State) :
    (∃ bad, FaultsIff bad .addressOutOfRange (exec i s)) ∨
      ∃ n, i = .intImm8 n ∧ exec i s = .fault (.unsupportedService n) := by
  obtain ⟨r, rfl⟩ | ⟨d, rfl⟩ | ⟨n, rfl⟩ | ⟨hpush, hpop, hint⟩ := i.stack_int_or_other
  · exact .inl ⟨_, pushWord_faultsIff (readReg16 s r) s⟩
  · exact .inl ⟨_, execPopReg16_faultsIff d s⟩
  · exact (execIntImm8_faultsIff s n).imp_right fun h => ⟨n, rfl, h⟩
  · exact .inl ⟨_, exec_faultsIff hpush hpop hint s⟩

theorem exec_ne_refused (i : Instr) (s : State) (q : Refusal) : exec i s ≠ .refused q := by
  obtain ⟨bad, h⟩ | ⟨n, -, h⟩ := exec_faultsIff_or_unsupported i s
  · exact h.ne_refused q
  · simp [h]

theorem exec_fault_kind {i : Instr} {s : State} {f : Fault} (h : exec i s = .fault f) :
    f = .addressOutOfRange ∨ ∃ n, i = .intImm8 n ∧ f = .unsupportedService n := by
  obtain ⟨bad, hf⟩ | ⟨n, hi, hf⟩ := exec_faultsIff_or_unsupported i s
  · exact .inl ((hf.eq_fault_iff f).mp h).1
  · rw [hf] at h
    cases h
    exact .inr ⟨n, hi, rfl⟩

/-! ### The table of R252 where the active page exists -/

section PageThere
variable {s : State} (hp : PageExists s s.ap)
include hp

theorem badOperand_iff (op : Operand) : BadOperand s op ↔ op = .mem16 0xFFFF := by
  cases op with
  | mem8 m => simp [BadOperand, hp]
  | mem16 m =>
    have hlast : ¬ m.toNat + 1 ≤ 0xFFFF ↔ m = 0xFFFF := by bv_omega
    rw [BadOperand, and_iff_right hp, hlast, Operand.mem16.injEq]
  | _ => simp [BadOperand]

theorem anyBad_iff (ops : List Operand) : AnyBad s ops ↔ .mem16 0xFFFF ∈ ops := by
  simp only [AnyBad, badOperand_iff hp, exists_eq_right]

end PageThere

theorem faults_of_other {i : Instr} (hpush : i.mnemonic ≠ .push) (hpop : i.mnemonic ≠ .pop) (hint : i.mnemonic ≠ .int)
    (s : State) (f : Fault) : Faults i s f ↔ f = .addressOutOfRange ∧ .mem16 0xFFFF ∈ i.operands := by
  unfold Faults
  split
  · exact absurd rfl hpush
  · exact absurd rfl hpop
  · exact absurd rfl hint
  · rfl

theorem exec_intImm8_fault_iff {s : State} (hs : SpecServices s) (n : Byte) (f : Fault) :
    exec (.intImm8 n) s = .fault f ↔ Faults (.intImm8 n) s f := by
  rw [exec_intImm8 hs, Faults]
  split_ifs
  · rw [(printService_faultsIff s).eq_fault_iff, servicePage_eq_bx hs, serviceOffset_eq_dx hs, terminator_eq hs, Nat.not_lt]
  · rw [(readLineService_faultsIff s).eq_fault_iff, servicePage_eq_bx hs, serviceOffset_eq_dx hs, Nat.not_lt]
  · simp [terminateService]
  · simp [eq_comm]

/-! ### STEP (R124, R250) -/

theorem fetchInstr_eq_error {s : State} {f : Fault} (hp : PageExists s s.ap) (h : fetchInstr s = .error f) :
    ∃ reason, f = .disassembleDiagnostic s.ip (byteAt s s.ap s.ip) reason := by
  rw [fetchInstr, if_pos ((validPage_eq _ _).mpr hp)] at h
  split at h
  · cases h
  · cases h; exact ⟨_, rfl⟩

/-- A step faults in its fetch or in the instruction it fetched. -/
theorem step_fault {s : State} {f : Fault} (h : step s = .fault f) :
    fetchInstr s = .error f ∨ ∃ i n, fetchInstr s = .ok (i, n) ∧ exec i s = .fault f := by
  unfold step at h
  split at h
  · next g hg => cases h; exact .inl hg
  · next i n hf =>
    split at h
    · cases h
    · next g hg => cases h; exact .inr ⟨i, n, hf, hg⟩
    · cases h

theorem step_ne_refused (s : State) (q : Refusal) : step s ≠ .refused q := by
  unfold step
  split
  · nofun
  · next i n _ =>
    split
    · nofun
    · nofun
    · next r hr => exact absurd hr (exec_ne_refused i s r)

end Sys2Proof.Machine

namespace Sys2Proof.Proofs

open Sys2Proof.Machine Sys2Proof.Spec

/-- Settles O11: each instruction faults on one condition, which is the table's where the active page exists and holds of every
memory access where it does not. -/
theorem execFaultsExactlyWhereTabulated : Obligations.ExecFaultsExactlyWhereTabulated := by
  refine ⟨fun s i hp hs f => ?_, fun s i hp hmem => ?_, fun s i => exec_ne_refused i s⟩
  · obtain ⟨r, rfl⟩ | ⟨d, rfl⟩ | ⟨n, rfl⟩ | ⟨hpush, hpop, hint⟩ := i.stack_int_or_other
    · exact ((pushWord_faultsIff (readReg16 s r) s).congr (or_iff_left (not_not.mpr hp))).eq_fault_iff f
    · have hlast := (badOperand_iff hp (.mem16 (readReg16 s .sp))).trans (Operand.mem16.injEq ..).to_iff
      exact ((execPopReg16_faultsIff d s).congr hlast).eq_fault_iff f
    · exact exec_intImm8_fault_iff hs n f
    · rw [faults_of_other hpush hpop hint, (exec_faultsIff hpush hpop hint s).eq_fault_iff, anyBad_iff hp]
  · have hbad16 (m : Word) : BadOperand s (.mem16 m) := fun h => hp h.1
    obtain ⟨r, rfl⟩ | ⟨d, rfl⟩ | ⟨n, rfl⟩ | ⟨hpush, hpop, hint⟩ := i.stack_int_or_other
    · exact (pushWord_faultsIff (readReg16 s r) s).1 (.inr hp)
    · exact (execPopReg16_faultsIff d s).1 (hbad16 _)
    · simp [Instr.operands, Instr.mnemonic, Instr.parts] at hmem
    · obtain ⟨m, h8 | h16⟩ | h | h := hmem
      · exact (exec_faultsIff hpush hpop hint s).1 ⟨_, h8, hp⟩
      · exact (exec_faultsIff hpush hpop hint s).1 ⟨_, h16, hbad16 m⟩
      · exact absurd h hpush
      · exact absurd h hpop

/-- Settles O12: the active page of a good state exists, so the fetch faults only with a diagnostic, and the instruction only
in the two ways the executor has. -/
theorem stepFaultsAreTheListedKinds : Obligations.StepFaultsAreTheListedKinds := by
  refine fun s hs => ⟨step_ne_refused s, fun f hf => ?_⟩
  obtain ⟨-, hp, -⟩ := hs
  obtain hfetch | ⟨i, len, hfetch, hexec⟩ := step_fault hf
  · exact .inl (fetchInstr_eq_error hp hfetch)
  · obtain haddr | ⟨n, rfl, hservice⟩ := exec_fault_kind hexec
    · exact .inr (.inl haddr)
    · exact .inr (.inr ⟨n, len, fetchInstr_eq_ok hfetch, hservice⟩)

end Sys2Proof.Proofs
end

section
/-! PROOFS. The state at reset and the first step from it, and the worked encodings of the spec (R80, R104, R280 to R284). -/

namespace Sys2Proof

/-! ### Bytes and the instructions they encode (R85, R104) -/

/-- Bytes that are an instruction's encoding decode to it, all of them. -/
theorem decode_of_encode_eq {c : Config} (h : c.tablesWf) {i : Instr} {bs : List Byte} (he : encode c i = bs) :
    decode c bs = .ok (i, bs.length) := by
  have hround := decode_encode_append h i []
  rwa [List.append_nil, he] at hround

theorem tablesWf_of_specTables {c : Config} (h : Spec.SpecTables c) : c.tablesWf :=
  ⟨regTable_wf_of_spec h.1, h.2 ▸ specOpTable_wf⟩

/-- 0x00 is no opcode of the spec's table. -/
theorem entryOfOpcode_zero_eq_none {c : Config} (h : c.opTable = Machine.specOpTable) : entryOfOpcode c 0x00 = none := by
  rw [entryOfOpcode_eq_none_iff, h, specOpTable_opcodes]
  decide

end Sys2Proof

namespace Sys2Proof.Machine

open Sys2Proof.Spec

/-! ### Reset (R280 to R284) -/

section Reset
variable {c : Config} (h : c.reset = specReset)
include h

theorem readFlag_resetWith (f : Flag) : readFlag (State.resetWith c) f = false := by
  rw [State.resetWith, h]
  cases f <;> rfl

theorem readReg16_resetWith (r : Reg16) : readReg16 (State.resetWith c) r = 0 := by
  rw [State.resetWith, h]
  cases r <;> rfl

/-- With the spec's tables the byte at (0, 0), which is zero, begins no instruction. -/
theorem step_resetWith (hpage : 1 ≤ c.nPages) (hc : SpecTables c) :
    step (State.resetWith c) = .fault (.disassembleDiagnostic 0 0x00 .unknownOpcode) := by
  have hap : (State.resetWith c).ap = 0 := congrArg ResetValues.ap h
  have hip : (State.resetWith c).ip = 0 := congrArg ResetValues.ip h
  have hmem : (State.resetWith c).mem = [] := congrArg ResetValues.mem h
  have hbyte : byteAt (State.resetWith c) 0 0 = 0x00 := by rw [byteAt, hmem, readPhys]
  have hp : PageExists (State.resetWith c) (State.resetWith c).ap := by rw [hap]; exact hpage
  obtain ⟨t, ht⟩ := fetchWindow_eq_cons (State.resetWith c) 0 0
  have hdec : Sys2Proof.decode (State.resetWith c).cfg (fetchWindow (State.resetWith c) 0 0) = .error .unknownOpcode := by
    rw [ht, hbyte]
    exact decode_cons_none (entryOfOpcode_zero_eq_none hc.2) t
  rw [step_of_decode_error hp (by rwa [hap, hip]), hap, hip, hbyte]

end Reset

end Sys2Proof.Machine

namespace Sys2Proof.Proofs

open Sys2Proof.Machine Sys2Proof.Spec

/-- Settles O46: the flags are the reset values', which are all clear. -/
theorem resetClearsTheFlags : Obligations.ResetClearsTheFlags :=
  ⟨fun _ f h => readFlag_resetWith h f, readFlag_resetWith rfl⟩

/-- Settles O47: each field is the reset values', and an empty store reads as zero everywhere, the first opcode among it. -/
theorem resetZeroesEverythingElse : Obligations.ResetZeroesEverythingElse := by
  intro c ⟨⟨hpage, _⟩, _⟩ h
  have hmem : (State.resetWith c).mem = [] := congrArg ResetValues.mem h
  have hdisk : (State.resetWith c).disk = [] := congrArg ResetValues.disk h
  exact ⟨readReg16_resetWith h, congrArg ResetValues.ip h, congrArg ResetValues.ap h, congrArg ResetValues.cur h,
    fun a => by rw [hmem, readPhys], fun a => by rw [hdisk, readPhys], rfl, step_resetWith h hpage⟩

/-- Settles O3: each row is the encoding its instruction's rule states, and an encoding decodes to its instruction. -/
theorem workedEncodingsDecode : Obligations.WorkedEncodingsDecode := by
  intro c hc
  have hwf := tablesWf_of_specTables hc
  obtain ⟨-, hmovStore, hmovLoad, -, -, -, hmovImm8, hmovImm16⟩ := movCopiesItsSource.1 c hc
  obtain ⟨-, -, -, -, -, hadd, -⟩ := addWritesSumAndSixFlags.1 c hc
  obtain ⟨-, -, -, -, hxor, -⟩ := xorWritesBitsAndClearsCarry.1 c hc
  exact ⟨decode_of_encode_eq hwf (hmovImm16 .ax 0x1234), decode_of_encode_eq hwf (hmovImm8 .al 0x7F),
    decode_of_encode_eq hwf (hmovStore 0x0300 .ax), decode_of_encode_eq hwf (hmovLoad .cl 0x0300),
    decode_of_encode_eq hwf (hadd .bx .cx), decode_of_encode_eq hwf (hxor .al .al),
    decode_of_encode_eq hwf (shlMovesTopBitToCarry.1 c .al hc), decode_of_encode_eq hwf (encode_pushReg16 hc),
    decode_of_encode_eq hwf (encode_intImm8 hc)⟩

end Sys2Proof.Proofs
end
